-- ==== Sys2Proof/Word.lean ====
section
/-! DEFINITION. The word types of the engine (00_scope.md R7, R8). -/

namespace Sys2Proof

/-- A byte is 8 bits (R8). -/
abbrev Byte := BitVec 8

/-- A register word is 32 bits (R7, D1). -/
abbrev Word := BitVec 32

/-- A slot number as the ring registers and the device channel carry it: 8 bits (R21, R71). -/
abbrev SlotIndex := BitVec 8

end Sys2Proof
end

