-- ==== Sys2Proof/Syntax.lean ====
section
/-! DEFINITION. The instructions: the four commands and the eight conversion kernels of spec/opcode_table.json, and the
two code spaces they are written in (30_encoding.md R90). -/

namespace Sys2Proof

/-- One constructor per row of spec/opcode_table.json. The first four are command words written to CMD (R92); the last
eight are the kernels selected by the tag PIXFMT.FMT (R98). -/
inductive Instr where
  /-- BUILD_LUT, R93, R120. -/
  | buildLut
  /-- REQCAP, R94, R140. -/
  | reqcap
  /-- AWAIT, R95, R147. -/
  | await
  /-- CONVERT slot, R97, R170. The slot is 8 bits wide in the word: `Instr.wf` checks it. -/
  | convert (slot : Nat)
  /-- Tag 0, planar 4:2:0, R174. -/
  | kernelYuv420p
  /-- Tag 1, planar 4:2:2, R175. -/
  | kernelYuv422p
  /-- Tag 2, packed 4:2:2, R176. -/
  | kernelYuyv
  /-- Tag 3, 15-bit RGB, R200. -/
  | kernelRgb555
  /-- Tag 4, 16-bit RGB, R201. -/
  | kernelRgb565
  /-- Tag 5, 24-bit RGB, R203. -/
  | kernelRgb24
  /-- Tag 6, 8-bit grey, R205. -/
  | kernelGrey
  /-- Tag 7, other, R206. -/
  | kernelOther
deriving DecidableEq, Repr

/-- The closed enumeration PixelFormat (R28, R98). -/
inductive PixelFormat where
  | yuv420p | yuv422p | yuyv | rgb555 | rgb565 | rgb24 | grey | other
deriving DecidableEq, Repr

/-- An encoding: a word of the command space or a tag of the format space, "a second, independent code space" (R90). -/
inductive Code where
  /-- A 32-bit command word, format `C` (R91). -/
  | command (word : Word)
  /-- A 3-bit format tag, format `PIXFMT` (R98). -/
  | tag (fmt : BitVec 3)
deriving DecidableEq, Repr

/-- Why a command word is illegal (R99), in the order in which the decoder looks. -/
inductive IllegalWord where
  /-- OP is 0x0 or in 0x5..0xF. -/
  | badOperation
  /-- Bits [7:4] are not 0. -/
  | z0NotZero
  /-- Bits [31:16] are not 0. -/
  | z1NotZero
  /-- Bits [15:8] are not 0 and OP is not CONVERT. -/
  | slotNotZero
deriving DecidableEq, Repr

end Sys2Proof
end

