-- ==== Sys2Proof/WellFormed.lean ====
section
/-! DEFINITION. Which instructions have an encoding. -/

namespace Sys2Proof

/-- The one operand is SLOT, "an 8-bit unsigned value" (R100); every other instruction has none. -/
def Instr.wf : Instr → Bool
  | .convert slot => slot < 256
  | .buildLut | .reqcap | .await => true
  | .kernelYuv420p | .kernelYuv422p | .kernelYuyv | .kernelRgb555 => true
  | .kernelRgb565 | .kernelRgb24 | .kernelGrey | .kernelOther => true

end Sys2Proof
end

