-- ==== Sys2Proof/Decode.lean ====
section
/-! DEFINITION. The decoder of command words and format tags (30_encoding.md R91 to R104), total, illegal words rejected
by name, and the encoder. -/

namespace Sys2Proof

/-- Field OP, bits [3:0] (R91). -/
def opField (w : Word) : BitVec 4 := w.extractLsb' 0 4

/-- Field Z0, bits [7:4] (R91). -/
def z0Field (w : Word) : BitVec 4 := w.extractLsb' 4 4

/-- Field SLOT, bits [15:8] (R91, R100). -/
def slotField (w : Word) : BitVec 8 := w.extractLsb' 8 8

/-- Field Z1, bits [31:16] (R91). -/
def z1Field (w : Word) : BitVec 16 := w.extractLsb' 16 16

/-- The decoder of command words (R104): total on all 2^32 words; what is not one of the four operations is illegal
(R99). -/
def decodeCommand (w : Word) : Except IllegalWord Instr :=
  if opField w = 0 ∨ 5 ≤ (opField w).toNat then .error .badOperation
  else if z0Field w ≠ 0 then .error .z0NotZero
  else if z1Field w ≠ 0 then .error .z1NotZero
  else if opField w = 4 then .ok (.convert (slotField w).toNat)
  else if slotField w ≠ 0 then .error .slotNotZero
  else if opField w = 1 then .ok .buildLut
  else if opField w = 2 then .ok .reqcap
  else .ok .await

/-- The format a tag names (R98): all eight tags are assigned. -/
def PixelFormat.ofTag (t : BitVec 3) : PixelFormat :=
  match t.toNat with
  | 0 => .yuv420p
  | 1 => .yuv422p
  | 2 => .yuyv
  | 3 => .rgb555
  | 4 => .rgb565
  | 5 => .rgb24
  | 6 => .grey
  | _ => .other

/-- The tag of a format (R98). -/
def PixelFormat.tag : PixelFormat → BitVec 3
  | .yuv420p => 0
  | .yuv422p => 1
  | .yuyv => 2
  | .rgb555 => 3
  | .rgb565 => 4
  | .rgb24 => 5
  | .grey => 6
  | .other => 7

/-- The kernel a format selects (R98, R101). -/
def PixelFormat.kernel : PixelFormat → Instr
  | .yuv420p => .kernelYuv420p
  | .yuv422p => .kernelYuv422p
  | .yuyv => .kernelYuyv
  | .rgb555 => .kernelRgb555
  | .rgb565 => .kernelRgb565
  | .rgb24 => .kernelRgb24
  | .grey => .kernelGrey
  | .other => .kernelOther

/-- The decoder of format tags (R98, R101): no tag is reserved or illegal. -/
def decodeTag (t : BitVec 3) : Instr := (PixelFormat.ofTag t).kernel

/-- The decoder over both code spaces (R90). -/
def decode : Code → Except IllegalWord Instr
  | .command w => decodeCommand w
  | .tag t => .ok (decodeTag t)

/-- The encoding of an instruction, from the tables of R92 to R98; CONVERT is written field by
field as R91 draws it, Z1, SLOT, Z0, OP (R97). -/
def encode : Instr → Code
  | .buildLut => .command 0x00000001
  | .reqcap => .command 0x00000002
  | .await => .command 0x00000003
  | .convert slot => .command ((0 : BitVec 16) ++ BitVec.ofNat 8 slot ++ (0 : BitVec 4) ++ (4 : BitVec 4))
  | .kernelYuv420p => .tag 0
  | .kernelYuv422p => .tag 1
  | .kernelYuyv => .tag 2
  | .kernelRgb555 => .tag 3
  | .kernelRgb565 => .tag 4
  | .kernelRgb24 => .tag 5
  | .kernelGrey => .tag 6
  | .kernelOther => .tag 7

/-- Whether an instruction of `nbits` bits belongs to the format-tag space: a tag is 3 bits, a command word 32, so a
table row of at most one byte is a tag (R90; log 29). -/
def isTagLength (nbits : Nat) : Bool := nbits ≤ 8

/-- The instruction the decoder reads from an instruction of `nbits` bits whose bits are `w`, bit 0 the least
significant, as spec/opcode_table.json numbers them. The bits of a PIXFMT word above the tag are ignored (R28). -/
def decodeTableWord (nbits w : Nat) : Option Instr :=
  if isTagLength nbits then (decode (.tag (BitVec.ofNat 3 w))).toOption
  else (decode (.command (BitVec.ofNat 32 w))).toOption

end Sys2Proof
end

