-- ==== Sys2Proof/Config.lean ====
section
/-! DEFINITION. What an implementation fixes and the spec leaves open, and the free values.
Every free value is an `opaque` constant without a body: no proof can see what it is, so a claim that mentions it
holds whatever it is. -/

namespace Sys2Proof.Config

/-- `MAX_PIXELS - 1`. MAX_PIXELS is a positive integer the spec does not give (R7, D37, U15; log 13). -/
opaque maxPixelsLessOne : Nat

/-- MAX_PIXELS, "the maximum supported frame": a positive integer, otherwise open (R7, D37; log 13). -/
def maxPixels : Nat := maxPixelsLessOne + 1

/-- SCRATCH_CAP = 3 * MAX_PIXELS bytes (R7, R61). -/
def scratchCap : Nat := 3 * maxPixels

/-- What SCRATCH byte `addr` holds after reset number `epoch` and before any kernel writes it: unspecified
(R49, U4; log 9). -/
opaque unwrittenScratch (epoch addr : Nat) : Byte

/-- What DEVBUF byte `addr` holds before any listed write: the device's, unspecified (U7; log 10). -/
opaque unwrittenDevbuf (addr : Nat) : Byte

/-- Draw number `n` of a table-window read while LUT_VALID = 0: "an unspecified 32-bit value that may differ from one
read to the next" (R48, U3; log 12). -/
opaque windowDraw (n : Nat) : Word

/-- Which of the values it may see a host read of a byte of SCRATCH or DEVBUF returns, for draw number `n`: "old or new in
any mixture" (R76, R269, U4; log 11), and for DEVBUF before the sync that orders it (R79; log 25). -/
opaque hostView (n : Nat) : Nat

/-- Which of the values it may see a kernel reads at DEVBUF address `addr` for pixel `pixel` in conversion number
`conversion`: "either its old or its new value, independently" (R267, R75, U10; log 25). -/
opaque inputView (conversion pixel addr : Nat) : Nat

/-- `frame_size` while FRAME_COUNT is 0: "undefined" (R63; log 14). No run uses it. -/
opaque undefinedFrameSize (regionSize : Nat) : Nat

/-- What a signed table answers at an index outside -127..127: "There is no entry" (R47; log 15). No run asks. -/
opaque missingTableEntry (index : Int) : Int

/-- What a 32-bit register holds when the value it should receive does not fit 32 bits: the spec is silent
(R36, R173; log 16). -/
opaque oversizeWord (value : Nat) : Word

end Sys2Proof.Config
end

