-- ==== Sys2Proof/Machine/State.lean ====
section
/-! DEFINITION. Everything the spec gives the machine, as plain data (10_state.md R20), the events of the other agents,
the reasons a step can stop, and the state after reset (R49). -/

namespace Sys2Proof.Machine

/-- Why the machine stops with a fault. -/
inductive Fault where
  /-- Raised by a converting kernel or a host read of a SCRATCH byte at or above SCRATCH_CAP, an address the spec says
  does not exist (20_memory.md R61). Safe: the model stops where the spec gives no meaning. The acceptance checks keep
  the kernels away from it (R171). -/
  | scratchOutOfRange
  /-- Raised by a converting kernel whose input would lie at or above 2^32, an address the spec says does not exist
  (R60). Safe. The acceptance checks keep the kernels away from it (R183). -/
  | devbufOutOfRange
deriving DecidableEq, Repr

/-- Why a run has no meaning in the model. -/
inductive Refusal where
  /-- Raised by `exec` for an instruction that has no meaning yet. Safe. No instruction is left. -/
  | notModelled (mnemonic : String)
  /-- Raised by a host access to REG that is not 32 bits wide or not 4-byte aligned: "a model refuses it"
  (10_state.md R41, U12). Safe. -/
  | badRegAccess
  /-- Raised by a device answer when no request waits for one: the device answers each request "exactly once"
  (20_memory.md R70). Safe. -/
  | unsolicitedAnswer
  /-- Raised by a reset that leaves a device request outstanding or a capture queued: "the spec gives such a run no
  meaning and a model must refuse it" (70_reset_and_hazards.md R262, U11). Safe. -/
  | resetWithoutTeardown
deriving DecidableEq, Repr

/-- The sequencer's phases (R38). -/
inductive Phase where
  | idle | lutB | rqQ | awW | awQ | conv
deriving DecidableEq, Repr

/-- The failure results (60_exceptions.md R230). -/
inductive ErrorCode where
  /-- The device answered FAIL to a QUEUE_CAPTURE (R231). -/
  | queue
  /-- The device answered FAIL to a WAIT_SYNC (R232). -/
  | wait
  /-- A register value makes the command meaningless (R233). -/
  | config
  /-- The command word is illegal (R235). -/
  | illegal
  /-- The LUT_VALID condition of the command fails (R234). -/
  | seq
deriving DecidableEq, Repr

/-- The requests of the device channel and their arguments (20_memory.md R71). -/
inductive DevRequest where
  /-- Posted: it has no response. -/
  | selectChannel (channel : BitVec 8)
  | queueCapture (slot : SlotIndex)
  | waitSync (slot : SlotIndex)
deriving DecidableEq, Repr

/-- The two answers to a non-posted request (R70). -/
inductive DevAnswer where
  | ok | fail
deriving DecidableEq, Repr

/-- One line of the device-request trace: a request the engine made, or the answer a request got (R102, U17). -/
inductive DevRecord where
  | request (r : DevRequest)
  | answered (r : DevRequest) (a : DevAnswer)
deriving DecidableEq, Repr

/-- What can happen next: an act of the host or of the device, a reset, or a turn of the engine. The host's acts, the
device's answers and the bytes it writes are free inputs (00_scope.md R6, R72, R73, U6, U7; log 1, log 2). -/
inductive Event where
  /-- The engine takes the step its phase enables, if any (R12). -/
  | engine
  /-- The host writes `value` to REG at byte offset `offset`, in an access of `width` bits (R41). -/
  | hostWrite (width offset : Nat) (value : Word)
  /-- The host reads REG at byte offset `offset`, in an access of `width` bits (R41). -/
  | hostRead (width offset : Nat)
  /-- The host reads one byte of SCRATCH (R61). -/
  | hostReadScratch (addr : Nat)
  /-- The host reads one byte of DEVBUF (R60, R78). -/
  | hostReadDevbuf (addr : Word)
  /-- The device answers the outstanding request (R70, R72). -/
  | deviceAnswer (a : DevAnswer)
  /-- A byte the device writes into DEVBUF becomes visible (R73, R75). -/
  | deviceWrite (addr : Word) (value : Byte)
  /-- The reset input (R260), with or without the device side torn down (R262). -/
  | reset (deviceTornDown : Bool)
deriving DecidableEq, Repr

/-- What a 32-bit-aligned offset of REG names (10_state.md R45). The table-window entries carry the entry's position:
`c` for Y and UV, `k + 127` for the signed tables. -/
inductive Reg where
  | cmd | status
  | ctrl | pixfmt | width | height | frameCount | regionBase | regionSize | capturesPerFrame | channel
  | capIndex | syncIndex | activeIndex
  | outDim | outInfo | outAddr | outLen
  | lutY (c : Fin 256) | lutUv (c : Fin 256)
  | lutRv (k : Fin 255) | lutGu (k : Fin 255) | lutGv (k : Fin 255) | lutBu (k : Fin 255)
  | unmapped
deriving DecidableEq, Repr

/-- The ring registers (R21 to R23). -/
structure Ring where
  /-- CAP_INDEX, "names the next slot to request" (R21). -/
  capIndex : SlotIndex
  /-- SYNC_INDEX, "names the next slot whose completion is awaited" (R22). -/
  syncIndex : SlotIndex
  /-- ACTIVE_INDEX, "set at request time" (R23). -/
  activeIndex : SlotIndex
deriving DecidableEq, Repr

/-- The stored fields of STATUS (R26). BUSY has no field: it is `phase != IDLE` (R38; log 6). -/
structure Status where
  done : Bool
  lutValid : Bool
  outValid : Bool
  ovr : Bool
  err : BitVec 4
deriving DecidableEq, Repr

/-- The configuration registers, their stored bits (R27 to R35). -/
structure ConfigRegs where
  /-- CTRL[0] (R27). -/
  shared : Bool
  /-- CTRL[1] (R27). -/
  bgrInvert : Bool
  /-- CTRL[2], stored and read back, read by no rule (R27). -/
  strict : Bool
  /-- PIXFMT.FMT (R28). -/
  pixfmt : BitVec 3
  width : BitVec 16
  height : BitVec 16
  frameCount : BitVec 8
  regionBase : Word
  regionSize : Word
  capturesPerFrame : BitVec 8
  channel : BitVec 8
deriving DecidableEq, Repr

/-- The output descriptor, OUT_DIM, OUT_INFO, OUT_ADDR, OUT_LEN (R36). -/
structure OutDescriptor where
  dim : Word
  info : Word
  addr : Word
  len : Word
deriving DecidableEq, Repr

/-- The six lookup tables (R46, R47). Position `p` of a signed table is the entry of index `p - 127`. -/
structure Tables where
  /-- Y, unsigned 8-bit entries. -/
  y : Vector (BitVec 8) 256
  /-- UV, signed 8-bit entries. -/
  uv : Vector (BitVec 8) 256
  rv : Vector (BitVec 16) 255
  gu : Vector (BitVec 16) 255
  gv : Vector (BitVec 16) 255
  bu : Vector (BitVec 16) 255
deriving DecidableEq, Repr

/-- The sequencer (R38, R39). -/
structure Sequencer where
  phase : Phase
  /-- `burst_left`, "an integer 0..255". -/
  burstLeft : Nat
  /-- `conv_slot`, "an integer 0..254". -/
  convSlot : Nat
  /-- `conv_advance`: the running conversion belongs to AWAIT. -/
  convAdvance : Bool
deriving DecidableEq, Repr

/-- A byte memory: (address, byte) pairs, addresses strictly rising. An address that is not listed has no value that
anything has written. -/
abbrev Memory := List Host.Cell

/-- The device channel (20_memory.md R70). An answer arrives and is taken by the engine in two events (log 21). -/
structure Channel where
  /-- The non-posted request that the device has not answered, or whose answer the engine has not taken. -/
  outstanding : Option DevRequest
  /-- The answer that has arrived and waits for the engine (`DevRsp`). -/
  answer : Option DevAnswer
  /-- The device-request trace, newest first (U17, R102): the model's own field (log 21). -/
  log : List DevRecord
deriving DecidableEq, Repr

/-- The model's own fields: what the host has seen, and the counters that number the free values. No rule of the engine
depends on them but through a free value. -/
structure HostView where
  /-- The word the host's latest read returned (log 26). -/
  data : Word
  /-- How many free values have been drawn (log 11, log 12, log 25). -/
  draws : Nat
  /-- The contents of SCRATCH before each image written since the host last read STATUS with DONE = 1, newest first: the
  old bytes it may still see (R76, R269; log 11). -/
  olderScratch : List Memory
  /-- How many images kernels have written (log 25). -/
  conversions : Nat
  /-- How many resets there have been (log 9). -/
  epoch : Nat
deriving DecidableEq, Repr

/-- The complete state: the engine's (R20), DEVBUF, the device channel, and what the other agents will do next. -/
structure State where
  ring : Ring
  status : Status
  cfg : ConfigRegs
  out : OutDescriptor
  lut : Tables
  seq : Sequencer
  /-- SCRATCH (R61). -/
  scratch : Memory
  /-- DEVBUF (R60), written by the device only. -/
  devbuf : Memory
  /-- The DEVBUF values that device writes replaced and no answered WAIT_SYNC has ordered yet, newest first: the old bytes
  a kernel or the host may still read (R75, R79, R267; log 25). The model's own field. -/
  stale : List Host.Cell
  chan : Channel
  /-- The events to come, the next one first (log 1). -/
  agenda : List Event
  host : HostView
deriving DecidableEq, Repr

/-- What the next step is: an instruction to run in a state, or an outcome reached without one. -/
inductive Turn where
  | run (i : Instr) (s : State)
  | over (o : Host.Outcome State Fault Refusal)
deriving Repr

/-- One pixel of the output raster, R, G, B (42_convert_yuv.md R172). -/
structure Rgb where
  r : Byte
  g : Byte
  b : Byte
deriving DecidableEq, Repr

/-- The descriptor "cleared to 0" (R36). -/
def OutDescriptor.zero : OutDescriptor := { dim := 0, info := 0, addr := 0, len := 0 }

/-- The tables' contents after reset: unspecified (R49, U2); the model names 0 (DESIGN CHOICE, log 7). -/
def Tables.atReset : Tables :=
  { y := Vector.replicate 256 0, uv := Vector.replicate 256 0,
    rv := Vector.replicate 255 0, gu := Vector.replicate 255 0,
    gv := Vector.replicate 255 0, bu := Vector.replicate 255 0 }

/-- The machine after reset (R49, R260). `burst_left`, `conv_slot`, `conv_advance` and the tables are unspecified there;
their values here are the model's (log 7, log 8). -/
def State.reset : State where
  ring := { capIndex := 0, syncIndex := 0, activeIndex := 0 }
  status := { done := false, lutValid := false, outValid := false, ovr := false, err := 0 }
  cfg := { shared := false, bgrInvert := false, strict := false, pixfmt := 0, width := 0, height := 0,
           frameCount := 0, regionBase := 0, regionSize := 0, capturesPerFrame := 1, channel := 0 }
  out := .zero
  lut := .atReset
  seq := { phase := .idle, burstLeft := 0, convSlot := 0, convAdvance := false }
  scratch := []
  devbuf := []
  stale := []
  chan := { outstanding := none, answer := none, log := [] }
  agenda := []
  host := { data := 0, draws := 0, olderScratch := [], conversions := 0, epoch := 0 }

end Sys2Proof.Machine
end

