-- ==== Sys2Proof/Machine/Ops.lean ====
section
/-! DEFINITION. The named operations over memories, the status flags, the sequencer and the device channel, among them
the failure end of a command (`State.raise`, R236) and, beside it, its success end (`State.finish`, R237). -/

namespace Sys2Proof.Machine

/-! ### Memories -/

/-- The byte written at `addr`, if any was. -/
def Memory.read : Memory → Nat → Option Byte
  | [], _ => none
  | (a, b) :: m, addr => if addr = a then some b else Memory.read m addr

/-- Write one byte, keeping the addresses strictly rising. -/
def Memory.write : Memory → Nat → Byte → Memory
  | [], addr, v => [(addr, v)]
  | (a, b) :: m, addr, v =>
    if addr < a then (addr, v) :: (a, b) :: m
    else if addr = a then (a, v) :: m
    else (a, b) :: Memory.write m addr v

/-- Write a list of bytes in address order from `addr` on (`MemWrite`, R11). -/
def Memory.writeBytes : Memory → Nat → List Byte → Memory
  | m, _, [] => m
  | m, addr, b :: bs => Memory.writeBytes (Memory.write m addr b) (addr + 1) bs

/-- The canonical form: addresses strictly rising. An unlisted address has no written value, so no entry can repeat
what an unlisted address reads as. -/
abbrev Memory.wf (m : Memory) : Prop := m.Pairwise (fun x y => x.1 < y.1)

/-- One byte of the SCRATCH contents `m`; a byte no kernel has written since reset is unspecified (R49, U4; log 9). -/
def State.scratchByteIn (s : State) (m : Memory) (addr : Nat) : Byte :=
  (Memory.read m addr).getD (Config.unwrittenScratch s.host.epoch addr)

/-- One byte of SCRATCH as it stands. -/
def State.scratchByte (s : State) (addr : Nat) : Byte := s.scratchByteIn s.scratch addr

/-- One byte of DEVBUF as it stands (`MemRead`, R11); a byte nobody has written is unspecified (U7; log 10). -/
def State.devbufByte (s : State) (addr : Nat) : Byte :=
  (Memory.read s.devbuf addr).getD (Config.unwrittenDevbuf addr)

/-- A read in a race: `current`, or one of `others`, the one that the free value `n` selects. Without others there is no
race and the read is exact. -/
def racingRead (current : Byte) (others : List Byte) (n : Nat) : Byte :=
  match others with
  | [] => current
  | b :: bs => (current :: b :: bs).getD (n % (bs.length + 2)) current

/-! ### How a command begins and ends -/

/-- The value of STATUS.ERR for each failure (R230). -/
def ErrorCode.code : ErrorCode → BitVec 4
  | .queue => 1
  | .wait => 2
  | .config => 3
  | .illegal => 4
  | .seq => 5

/-- STATUS.BUSY: "`BUSY = 1` exactly when `phase != IDLE`" (R26, R38; log 6). -/
def State.busy (s : State) : Bool := s.seq.phase ≠ .idle

/-- `phase <- p` (R11). -/
def State.toPhase (s : State) (p : Phase) : State :=
  { s with seq := { s.seq with phase := p } }

/-- Step (1) of acceptance: DONE and ERR are cleared (R96). -/
def State.acceptWord (s : State) : State :=
  { s with status := { s.status with done := false, err := 0 } }

/-- The failure end of a command, the meaning of `raise` (R236): ERR, DONE, BUSY <- 0 and phase IDLE in one step, and
nothing else: no handler, no vector, no saved state (R238). -/
def State.raise (s : State) (e : ErrorCode) : State :=
  { s with status := { s.status with done := true, err := e.code },
           seq := { s.seq with phase := .idle } }

/-- The success end of a command, the meaning of `done` (R237). There is no return instruction (R242). -/
def State.finish (s : State) : State :=
  { s with status := { s.status with done := true, err := 0 },
           seq := { s.seq with phase := .idle } }

/-- A write that is dropped because BUSY is 1 sets OVR and changes nothing else (R44). -/
def State.dropWrite (s : State) : State :=
  { s with status := { s.status with ovr := true } }

/-- A 1 written to STATUS[4] clears OVR (R26). That OVR "ends set" when an engine step sets it at the same moment never
arises: one agent acts in a step (log 24). -/
def State.clearOvr (s : State) : State :=
  { s with status := { s.status with ovr := false } }

/-- Acceptance of CONVERT and AWAIT clears OUT_VALID and the output descriptor (R36, R96 step (5)). -/
def State.clearOutput (s : State) : State :=
  { s with status := { s.status with outValid := false }, out := .zero }

/-! ### The ring -/

/-- The advance of a ring index (R145, R153): "`CAP_INDEX + 1` when that is less than FC and 0 otherwise". -/
def advanceIndex (index : SlotIndex) (fc : BitVec 8) : SlotIndex :=
  if index.toNat + 1 < fc.toNat then BitVec.ofNat 8 (index.toNat + 1) else 0

/-- ACTIVE_INDEX <- CAP_INDEX (R143). -/
def State.activate (s : State) : State :=
  { s with ring := { s.ring with activeIndex := s.ring.capIndex } }

/-- CAP_INDEX advances modulo FRAME_COUNT (R145). -/
def State.advanceCap (s : State) : State :=
  { s with ring := { s.ring with capIndex := advanceIndex s.ring.capIndex s.cfg.frameCount } }

/-- SYNC_INDEX advances modulo FRAME_COUNT (R153). -/
def State.advanceSync (s : State) : State :=
  { s with ring := { s.ring with syncIndex := advanceIndex s.ring.syncIndex s.cfg.frameCount } }

/-! ### The device channel -/

/-- `DevReq` of a posted request: it has no response (R71), so the trace is all it leaves (R142, U17; log 28). -/
def State.postRequest (s : State) (r : DevRequest) : State :=
  { s with chan := { s.chan with log := .request r :: s.chan.log } }

/-- `DevReq` of a non-posted request: it is outstanding until it is answered (R70). -/
def State.sendRequest (s : State) (r : DevRequest) : State :=
  { s with chan := { s.chan with outstanding := some r, log := .request r :: s.chan.log } }

/-- The engine takes the answer to its outstanding request (`DevRsp`, R70). -/
def State.takeAnswer (s : State) : State :=
  { s with chan := { s.chan with outstanding := none, answer := none } }

/-- The slots whose capture the device still holds, from the trace (newest first): a QUEUE_CAPTURE answered OK adds one,
the OK answer to a WAIT_SYNC for the same slot takes it away (R72, R73; log 22). The engine never looks at it (R74). -/
def queuedSlots : List DevRecord → List SlotIndex
  | [] => []
  | .answered (.queueCapture slot) .ok :: older => slot :: queuedSlots older
  | .answered (.waitSync slot) .ok :: older => (queuedSlots older).erase slot
  | _ :: older => queuedSlots older

/-! ### What the host has seen -/

/-- A host read returns `w`. -/
def State.reply (s : State) (w : Word) : State :=
  { s with host := { s.host with data := w } }

/-- A host read returns the free value `w`; the next one drawn is another (U3, U4). -/
def State.replyDrawn (s : State) (w : Word) : State :=
  { s with host := { s.host with data := w, draws := s.host.draws + 1 } }

/-- A host read of a byte that may be `current` or, in a race, one of `others`: a race draws (log 11, log 25). -/
def State.replyRacing (s : State) (current : Byte) (others : List Byte) : State :=
  match others with
  | [] => s.reply (current.setWidth 32)
  | _ :: _ => s.replyDrawn ((racingRead current others (Config.hostView s.host.draws)).setWidth 32)

/-- An image has been written over what SCRATCH held in `s`: until the host has seen DONE it may see the old bytes
(R76; log 11). -/
def State.keepOlderScratch (s : State) : State :=
  { s with host := { s.host with
      olderScratch := s.scratch :: s.host.olderScratch, conversions := s.host.conversions + 1 } }

/-- The host has seen DONE = 1: every SCRATCH write so far is visible to its later reads (R76). -/
def State.closeRace (s : State) : State :=
  { s with host := { s.host with olderScratch := [] } }

/-! ### Reset -/

/-- The state a reset leaves (R49, R260): every piece of engine state at its reset value, the channel empty, DEVBUF
unchanged, with the order its writes have (log 25). SCRATCH is unspecified again (log 9). -/
def State.resetEngine (s : State) : State :=
  { State.reset with
    devbuf := s.devbuf, stale := s.stale, agenda := s.agenda,
    host := { s.host with olderScratch := [], epoch := s.host.epoch + 1 } }

/-- The device side is idle: no request outstanding, no stale answer in flight, no capture still queued (R262). -/
def State.deviceIdle (s : State) : Bool :=
  s.chan.outstanding.isNone && s.chan.answer.isNone && (queuedSlots s.chan.log).isEmpty

/-- Reset needs the device side idle or torn down together with the engine; the spec gives the other runs no meaning
(R262, U11; log 20). -/
def State.takeReset (s : State) (deviceTornDown : Bool) : Host.Outcome State Fault Refusal :=
  if deviceTornDown || s.deviceIdle then .next s.resetEngine
  else .refused .resetWithoutTeardown

end Sys2Proof.Machine
end

