-- ==== Sys2Proof/Machine/Flags.lean ====
section
/-! DEFINITION. The words software reads: STATUS, CTRL, OUT_INFO, OUT_DIM, field by field. No flag is computed from data
(10_state.md R43). -/

namespace Sys2Proof.Machine

/-- STATUS as the host reads it (R26): ERR in [11:8], OVR, OUT_VALID, LUT_VALID, DONE, BUSY in [4:0], the rest 0. -/
def State.statusWord (s : State) : Word :=
  (0 : BitVec 20) ++ s.status.err ++ (0 : BitVec 3) ++ BitVec.ofBool s.status.ovr ++ BitVec.ofBool s.status.outValid
    ++ BitVec.ofBool s.status.lutValid ++ BitVec.ofBool s.status.done ++ BitVec.ofBool s.busy

/-- CTRL as the host reads it (R27): STRICT, BGR_INVERT, SHARED in [2:0], the rest 0. -/
def State.ctrlWord (s : State) : Word :=
  (0 : BitVec 29) ++ BitVec.ofBool s.cfg.strict ++ BitVec.ofBool s.cfg.bgrInvert ++ BitVec.ofBool s.cfg.shared

/-- OUT_INFO (R36): OFMT in [18:16], KIND (1 = SCRATCH) in [8], CHANNELS in [1:0], the rest 0. -/
def infoWord (fmt : PixelFormat) (inScratch : Bool) (channels : BitVec 2) : Word :=
  (0 : BitVec 13) ++ fmt.tag ++ (0 : BitVec 7) ++ BitVec.ofBool inScratch ++ (0 : BitVec 6) ++ channels

/-- OUT_DIM (R36): OH in [31:16], OW in [15:0]; every kernel reports HEIGHT and WIDTH (R207). -/
def State.dimWord (s : State) : Word := s.cfg.height ++ s.cfg.width

/-- A number put into a 32-bit register. The spec says nothing of one that does not fit: a free value (log 16). -/
def word32 (n : Nat) : Word := if n < 2 ^ 32 then BitVec.ofNat 32 n else Config.oversizeWord n

end Sys2Proof.Machine
end

