-- ==== Sys2Proof/Machine/Operands.lean ====
section
/-! DEFINITION. The operands: exact arithmetic (`tdiv`, `clamp8`), slot addresses, input bytes, table entries, pixel
words, and the geometry and size conditions of 42_convert_yuv.md R171. -/

namespace Sys2Proof.Machine

/-! ### Arithmetic -/

/-- Truncating division, rounding toward zero, for `b > 0` (00_scope.md R9). -/
def tdiv (a b : Int) : Int := if 0 ≤ a then a / b else -((-a) / b)

/-- Clamping to an unsigned byte (R10). -/
def clamp8 (x : Int) : Byte :=
  if x < 0 then 0 else if x > 255 then 255 else BitVec.ofInt 8 x

/-- A `k`-bit field becomes the byte `f << (8 - k)` (43_convert_rgb_passthrough.md R208). -/
def expandField {k : Nat} (f : BitVec k) : Byte := f.setWidth 8 <<< (8 - k)

/-! ### Geometry -/

/-- `P = W * H`, exact (R171). -/
def State.pixelCount (s : State) : Nat := s.cfg.width.toNat * s.cfg.height.toNat

/-- `frame_size` (20_memory.md R63): undefined when FRAME_COUNT is 0 (log 14). -/
def State.frameSize (s : State) : Nat :=
  if s.cfg.frameCount = 0 then Config.undefinedFrameSize s.cfg.regionSize.toNat
  else s.cfg.regionSize.toNat / s.cfg.frameCount.toNat

/-- `slot_addr(i)`, computed exactly (R64). -/
def State.slotAddr (s : State) (slot : Nat) : Nat := s.cfg.regionBase.toNat + slot * s.frameSize

/-- The slice of the running conversion (R66, R170). -/
def State.slice (s : State) : Nat := s.slotAddr s.seq.convSlot

/-- `in[k]` as DEVBUF holds it (R11, R66). -/
def State.inByte (s : State) (k : Nat) : Byte := s.devbufByte (s.slice + k)

/-- The old values of DEVBUF byte `addr` that a read may still return: those the device has replaced since the slot was
synced (R75, R79; log 25). -/
def State.staleBytes (s : State) (addr : Nat) : List Byte := (s.stale.filter fun c => c.1 == addr).map Prod.snd

/-- What the running conversion reads for `in[k]` when it makes pixel `p`: the byte, or in a race with the device
independently an old value of it (R267, R69; log 25). -/
def State.readInput (s : State) (p k : Nat) : Byte :=
  racingRead (s.inByte k) (s.staleBytes (s.slice + k)) (Config.inputView s.host.conversions p (s.slice + k))

/-- The format in PIXFMT (R28, R98). -/
def State.format (s : State) : PixelFormat := PixelFormat.ofTag s.cfg.pixfmt

/-- The dimension conditions of R171. -/
def dimensionsLegal (fmt : PixelFormat) (w h : Nat) : Bool :=
  match fmt with
  | .yuv420p => 2 ≤ w && 2 ≤ h && w % 2 == 0 && h % 2 == 0
  | .yuv422p | .yuyv => 2 ≤ w && 1 ≤ h && w % 2 == 0
  | .rgb555 | .rgb565 | .rgb24 | .grey | .other => 1 ≤ w && 1 ≤ h

/-- `need_in` of R171: the bytes of the slot that the format takes up; 0 for OTHER. -/
def needIn (fmt : PixelFormat) (pixels : Nat) : Nat :=
  match fmt with
  | .yuv420p => pixels + 2 * (pixels / 4)
  | .yuv422p => pixels + 2 * (pixels / 2)
  | .yuyv | .rgb555 | .rgb565 => 2 * pixels
  | .rgb24 => 3 * pixels
  | .grey => pixels
  | .other => 0

/-- Whether the kernel writes SCRATCH (R171); RGB24 does when BGR_INVERT is 1. -/
def usesScratch (fmt : PixelFormat) (bgrInvert : Bool) : Bool :=
  match fmt with
  | .yuv420p | .yuv422p | .yuyv | .rgb555 | .rgb565 => true
  | .rgb24 => bgrInvert
  | .grey | .other => false

/-- The geometry and size checks common to CONVERT and AWAIT (R171): causes (e), (f), (g) of R233. -/
def State.geometryLegal (s : State) : Bool :=
  dimensionsLegal s.format s.cfg.width.toNat s.cfg.height.toNat
    && needIn s.format s.pixelCount ≤ s.frameSize
    && (!usesScratch s.format s.cfg.bgrInvert || s.pixelCount ≤ Config.maxPixels)

/-- `REGION_BASE + REGION_SIZE <= 2^32` (R233 (d)). -/
def State.regionLegal (s : State) : Bool := s.cfg.regionBase.toNat + s.cfg.regionSize.toNat ≤ 2 ^ 32

/-! ### Table entries -/

/-- `Y[c]` (R46). -/
def Tables.yAt (t : Tables) (c : Byte) : Int := (t.y[c.toNat]'c.isLt).toNat

/-- `UV[c]` (R46). -/
def Tables.uvAt (t : Tables) (c : Byte) : Int := (t.uv[c.toNat]'c.isLt).toInt

/-- The entry of index `k` of a signed table (R47). There is none outside -127..127 (log 15). -/
def signedEntry (t : Vector (BitVec 16) 255) (k : Int) : Int :=
  if h : (k + 127).toNat < 255 ∧ 0 ≤ k + 127 then (t[(k + 127).toNat]'h.1).toInt
  else Config.missingTableEntry k

/-- `yuv2rgb(y, u, v)` (42_convert_yuv.md R177): exact sums, each clamped once. -/
def yuv2rgb (t : Tables) (y u v : Int) : Rgb :=
  { r := clamp8 (y + signedEntry t.rv v)
    g := clamp8 (y - (signedEntry t.gu u + signedEntry t.gv v))
    b := clamp8 (y + signedEntry t.bu u) }

/-! ### Pixels of the kernels -/

/-- `w = in[2i+1] || in[2i]`, little-endian (R67). -/
def State.pixelWord (s : State) (i : Nat) : BitVec 16 := s.readInput i (2 * i + 1) ++ s.readInput i (2 * i)

/-- The bytes of the raster in address order: R, G, B of pixel 0, of pixel 1, ... (R172). -/
def raster (pixels : Nat) (pixel : Nat → Rgb) : List Byte :=
  (List.range pixels).flatMap fun p => [(pixel p).r, (pixel p).g, (pixel p).b]

end Sys2Proof.Machine
end

