-- ==== Sys2Proof/Machine/LutBuilder.lean ====
section
/-! DEFINITION. BUILD_LUT and the six lookup tables (40_lut_builder.md R120 to R126). -/

namespace Sys2Proof.Machine

/-- `Y[c]` (R121). -/
def yValue (c : Nat) : Int :=
  if c ≤ 16 then 0 else if 235 ≤ c then 255 else tdiv (255 * ((c : Int) - 16)) 219

/-- `UV[c]` (R122). -/
def uvValue (c : Nat) : Int :=
  if c ≤ 16 then -127 else if 240 ≤ c then 127 else tdiv (127 * ((c : Int) - 128)) 112

/-- A coefficient table's entry: `tdiv(coefficient * k, 1000)` (R123 to R126). -/
def coefficientValue (coefficient : Int) (k : Int) : Int := tdiv (coefficient * k) 1000

/-- The table of `n` entries whose entry `i` is `f i`. -/
def tabulate {α : Type} (n : Nat) (f : Nat → α) : Vector α n := ⟨((List.range n).map f).toArray, by simp⟩

/-- A coefficient table: position `p` is the entry of index `p - 127` (R47). -/
def coefficientTable (coefficient : Int) : Vector (BitVec 16) 255 :=
  tabulate 255 fun p => BitVec.ofInt 16 (coefficientValue coefficient ((p : Int) - 127))

/-- The six tables as BUILD_LUT writes them (R121 to R126). -/
def builtTables : Tables :=
  { y := tabulate 256 fun c => BitVec.ofInt 8 (yValue c)
    uv := tabulate 256 fun c => BitVec.ofInt 8 (uvValue c)
    rv := coefficientTable 1402
    gu := coefficientTable 344
    gv := coefficientTable 714
    bu := coefficientTable 1772 }

/-- Acceptance of BUILD_LUT (R120): ERR_SEQ when the tables are already built (R234 (a)). -/
def State.acceptBuildLut (s : State) : State :=
  if s.status.lutValid then s.acceptWord.raise .seq else s.acceptWord.toPhase .lutB

/-- The build step (R120): all 1532 entries and LUT_VALID, and the command is done. It cannot fail (U14). -/
def State.buildTables (s : State) : State :=
  State.finish { s with lut := builtTables, status := { s.status with lutValid := true } }

/-- BUILD_LUT (R120): the step its phase enables; while another command runs it is dropped (R44; log 4). -/
def execBuildLut (s : State) : Host.Outcome State Fault Refusal :=
  match s.seq.phase with
  | .idle => .next s.acceptBuildLut
  | .lutB => .next s.buildTables
  | .rqQ | .awW | .awQ | .conv => .next s.dropWrite

end Sys2Proof.Machine
end

