-- ==== Sys2Proof/Machine/Image.lean ====
section
/-! DEFINITION. What a kernel's end leaves: the two forms of the CanonicalImage (42_convert_yuv.md R173,
43_convert_rgb_passthrough.md R207), an image in SCRATCH or a view into DEVBUF. -/

namespace Sys2Proof.Machine

/-- The state a converting kernel leaves: the image in SCRATCH from address 0, what SCRATCH held before kept for the race
of R76 (log 11), the descriptor of R173, OUT_VALID set, the command done (R170 step D). -/
def State.scratchResult (s : State) (fmt : PixelFormat) (image : List Byte) : State :=
  State.finish
    { s.keepOlderScratch with
      scratch := Memory.writeBytes s.scratch 0 image
      out := { dim := s.dimWord, info := infoWord fmt true 3, addr := 0, len := word32 (3 * s.pixelCount) }
      status := { s.status with outValid := true } }

/-- The image fits SCRATCH and the kernel's input lies inside DEVBUF; the acceptance checks see to both (R171, R183). -/
abbrev State.fits (s : State) (fmt : PixelFormat) : Prop :=
  s.pixelCount ≤ Config.maxPixels ∧ (needIn fmt s.pixelCount = 0 ∨ s.slice + needIn fmt s.pixelCount ≤ 2 ^ 32)

/-- The end of a converting kernel. An image that does not fit SCRATCH, or input beyond DEVBUF, is an access to an
address that does not exist (log 17). -/
def State.endInScratch (s : State) (fmt : PixelFormat) (image : List Byte) : Host.Outcome State Fault Refusal :=
  if s.fits fmt then .next (s.scratchResult fmt image)
  else if s.pixelCount ≤ Config.maxPixels then .fault .devbufOutOfRange
  else .fault .scratchOutOfRange

/-- The end of a pass-through kernel: no memory is read or written; the descriptor is a view of `len` bytes of the slot
(R202, R205, R206). -/
def State.endAsView (s : State) (fmt : PixelFormat) (channels : BitVec 2) (len : Nat) : State :=
  State.finish
    { s with
      out := { dim := s.dimWord, info := infoWord fmt false channels, addr := word32 s.slice, len := word32 len }
      status := { s.status with outValid := true } }

end Sys2Proof.Machine
end

