-- ==== Sys2Proof/Machine/RgbKernels.lean ====
section
/-! DEFINITION. The bit-packed, 24-bit and pass-through kernels (43_convert_rgb_passthrough.md R200 to R206). None reads
a lookup table. -/

namespace Sys2Proof.Machine

/-- A 5-5-5 pixel word: red [14:10], green [9:5], blue [4:0], bit 15 ignored (R200; G1, log 23). -/
def unpack555 (w : BitVec 16) : Rgb :=
  { r := expandField (w.extractLsb' 10 5), g := expandField (w.extractLsb' 5 5), b := expandField (w.extractLsb' 0 5) }

/-- A 5-6-5 pixel word: red [15:11], green [10:5], blue [4:0] (R201; G2, log 23). -/
def unpack565 (w : BitVec 16) : Rgb :=
  { r := expandField (w.extractLsb' 11 5), g := expandField (w.extractLsb' 5 6), b := expandField (w.extractLsb' 0 5) }

/-- Pixel `i` with its first and third byte exchanged (R204). -/
def State.swappedPixel (s : State) (i : Nat) : Rgb :=
  { r := s.readInput i (3 * i + 2), g := s.readInput i (3 * i + 1), b := s.readInput i (3 * i) }

/-- The image of kernel RGB555 (R200). -/
def State.rgb555Image (s : State) : List Byte := raster s.pixelCount fun i => unpack555 (s.pixelWord i)

/-- The conversion step with kernel RGB555 (R200). -/
def State.runRgb555 (s : State) : Host.Outcome State Fault Refusal :=
  s.endInScratch .rgb555 s.rgb555Image

/-- The image of kernel RGB565 (R201). -/
def State.rgb565Image (s : State) : List Byte := raster s.pixelCount fun i => unpack565 (s.pixelWord i)

/-- The conversion step with kernel RGB565 (R201). -/
def State.runRgb565 (s : State) : Host.Outcome State Fault Refusal :=
  s.endInScratch .rgb565 s.rgb565Image

/-- The image of kernel RGB24 with BGR_INVERT = 1 (R204). -/
def State.swappedImage (s : State) : List Byte := raster s.pixelCount s.swappedPixel

/-- The conversion step with kernel RGB24 (R203): exchanged into SCRATCH when BGR_INVERT is 1 (R204), a view when it is
0 (R202). -/
def State.runRgb24 (s : State) : Host.Outcome State Fault Refusal :=
  if s.cfg.bgrInvert then s.endInScratch .rgb24 s.swappedImage
  else .next (s.endAsView .rgb24 3 (3 * s.pixelCount))

/-- The conversion step with kernel GREY (R205): a view of P bytes, one channel. -/
def State.runGrey (s : State) : Host.Outcome State Fault Refusal := .next (s.endAsView .grey 1 s.pixelCount)

/-- The conversion step with kernel OTHER (R206): a view of the whole slot, channel count 0. -/
def State.runOther (s : State) : Host.Outcome State Fault Refusal := .next (s.endAsView .other 0 s.frameSize)

/-- The meaning of row KERNEL_RGB555: the conversion step with this kernel (R200; log 5). -/
def execKernelRgb555 (s : State) : Host.Outcome State Fault Refusal := s.runRgb555

/-- The meaning of row KERNEL_RGB565 (R201; log 5). -/
def execKernelRgb565 (s : State) : Host.Outcome State Fault Refusal := s.runRgb565

/-- The meaning of row KERNEL_RGB24 (R203; log 5). -/
def execKernelRgb24 (s : State) : Host.Outcome State Fault Refusal := s.runRgb24

/-- The meaning of row KERNEL_GREY (R205; log 5). -/
def execKernelGrey (s : State) : Host.Outcome State Fault Refusal := s.runGrey

/-- The meaning of row KERNEL_OTHER (R206; log 5). -/
def execKernelOther (s : State) : Host.Outcome State Fault Refusal := s.runOther

end Sys2Proof.Machine
end

