-- ==== Sys2Proof/Machine/YuvKernels.lean ====
section
/-! DEFINITION. The three YUV kernels (42_convert_yuv.md R174 to R176). The input planes are rasters without padding
(R172); that U precedes V is the spec's own choice (G3, D20; log 23). -/

namespace Sys2Proof.Machine

/-- Pixel `(x, r)`, `p = r * W + x`, of kernel YUV420P (R174): chroma row `r / 2`, column `x / 2`. -/
def State.yuv420pPixel (s : State) (p : Nat) : Rgb :=
  let w := s.cfg.width.toNat
  let h := s.cfg.height.toNat
  let x := p % w
  let r := p / w
  let wc := w / 2
  let uOff := w * h
  let vOff := w * h + wc * (h / 2)
  yuv2rgb s.lut
    (s.lut.yAt (s.readInput p (r * w + x)))
    (s.lut.uvAt (s.readInput p (uOff + (r / 2) * wc + x / 2)))
    (s.lut.uvAt (s.readInput p (vOff + (r / 2) * wc + x / 2)))

/-- Pixel `p = r * W + x` of kernel YUV422P (R175): chroma row `r`, column `x / 2`. -/
def State.yuv422pPixel (s : State) (p : Nat) : Rgb :=
  let w := s.cfg.width.toNat
  let h := s.cfg.height.toNat
  let x := p % w
  let r := p / w
  let wc := w / 2
  let uOff := w * h
  let vOff := w * h + wc * h
  yuv2rgb s.lut
    (s.lut.yAt (s.readInput p (r * w + x)))
    (s.lut.uvAt (s.readInput p (uOff + r * wc + x / 2)))
    (s.lut.uvAt (s.readInput p (vOff + r * wc + x / 2)))

/-- Pixel `p` of kernel YUYV (R176): group `g = p / 2` is Y1, U, Y2, V; luma is raw, chroma goes through UV. -/
def State.yuyvPixel (s : State) (p : Nat) : Rgb :=
  let g := p / 2
  yuv2rgb s.lut
    (s.readInput p (4 * g + 2 * (p % 2))).toNat
    (s.lut.uvAt (s.readInput p (4 * g + 1)))
    (s.lut.uvAt (s.readInput p (4 * g + 3)))

/-- The image of kernel YUV420P (R174). -/
def State.yuv420pImage (s : State) : List Byte := raster s.pixelCount s.yuv420pPixel

/-- The conversion step with kernel YUV420P (R174). -/
def State.runYuv420p (s : State) : Host.Outcome State Fault Refusal :=
  s.endInScratch .yuv420p s.yuv420pImage

/-- The image of kernel YUV422P (R175). -/
def State.yuv422pImage (s : State) : List Byte := raster s.pixelCount s.yuv422pPixel

/-- The conversion step with kernel YUV422P (R175). -/
def State.runYuv422p (s : State) : Host.Outcome State Fault Refusal :=
  s.endInScratch .yuv422p s.yuv422pImage

/-- The image of kernel YUYV (R176). -/
def State.yuyvImage (s : State) : List Byte := raster s.pixelCount s.yuyvPixel

/-- The conversion step with kernel YUYV (R176): W * H is even, so its W * H / 2 groups are its W * H pixels. -/
def State.runYuyv (s : State) : Host.Outcome State Fault Refusal :=
  s.endInScratch .yuyv s.yuyvImage

/-- The meaning of row KERNEL_YUV420P: the conversion step with this kernel (R174; log 5). -/
def execKernelYuv420p (s : State) : Host.Outcome State Fault Refusal := s.runYuv420p

/-- The meaning of row KERNEL_YUV422P (R175; log 5). -/
def execKernelYuv422p (s : State) : Host.Outcome State Fault Refusal := s.runYuv422p

/-- The meaning of row KERNEL_YUYV (R176; log 5). -/
def execKernelYuyv (s : State) : Host.Outcome State Fault Refusal := s.runYuyv

end Sys2Proof.Machine
end

