-- ==== Sys2Proof/Machine/Convert.lean ====
section
/-! DEFINITION. CONVERT and the conversion step it shares with AWAIT (42_convert_yuv.md R170, R183). -/

namespace Sys2Proof.Machine

/-- The conversion step (R170 step D): exactly one kernel, selected by PIXFMT.FMT (R101). The step itself cannot fail on
a conversion that was accepted (R170). -/
def State.conversionStep (s : State) : Host.Outcome State Fault Refusal :=
  match s.format with
  | .yuv420p => s.runYuv420p
  | .yuv422p => s.runYuv422p
  | .yuyv => s.runYuyv
  | .rgb555 => s.runRgb555
  | .rgb565 => s.runRgb565
  | .rgb24 => s.runRgb24
  | .grey => s.runGrey
  | .other => s.runOther

/-- The image the running conversion's kernel writes, for the kernels that write one. -/
def State.imageOf (s : State) : PixelFormat → List Byte
  | .yuv420p => s.yuv420pImage
  | .yuv422p => s.yuv422pImage
  | .yuyv => s.yuyvImage
  | .rgb555 => s.rgb555Image
  | .rgb565 => s.rgb565Image
  | .rgb24 => s.swappedImage
  | .grey | .other => []

/-- The new SCRATCH byte at `addr` that a conversion in progress may have written already (R69, R269): none outside the
phase CONV, for a format that writes no image, or above the image. It is the byte the kernel would leave if its step came
now. DESIGN CHOICE, safe: how this race and the input race combine the spec leaves open; after a later device write into the
slot the kernel's step may leave another byte than the host was shown (log 32). -/
def State.newScratch (s : State) (addr : Nat) : List Byte :=
  if s.seq.phase = .conv ∧ s.status.done = false ∧ usesScratch s.format s.cfg.bgrInvert = true then
    (s.imageOf s.format)[addr]?.toList
  else []

/-- What acceptance of CONVERT and AWAIT does after its checks: the earlier result is no longer valid (R96 step (5),
R36). -/
def State.acceptConversion (s : State) : State := s.acceptWord.clearOutput

/-- The checks of CONVERT, the first that fails deciding the error (R183). -/
def State.convertCheck (s : State) (slot : Nat) : Option ErrorCode :=
  if !s.status.lutValid then some .seq
  else if s.cfg.frameCount = 0 then some .config
  else if s.cfg.frameCount.toNat ≤ slot then some .config
  else if !s.regionLegal then some .config
  else if !s.geometryLegal then some .config
  else none

/-- Acceptance of CONVERT (R170 step A). -/
def State.acceptConvert (s : State) (slot : Nat) : State :=
  match s.convertCheck slot with
  | some e => s.acceptWord.raise e
  | none =>
    let s := s.acceptConversion
    { s with seq := { s.seq with phase := .conv, convSlot := slot, convAdvance := false } }

/-- CONVERT (R170): the step its phase enables; while another command runs it is dropped (R44; log 4). -/
def execConvert (slot : Nat) (s : State) : Host.Outcome State Fault Refusal :=
  match s.seq.phase with
  | .idle => .next (s.acceptConvert slot)
  | .conv => if s.seq.convAdvance then .next s.dropWrite else s.conversionStep
  | .lutB | .rqQ | .awW | .awQ => .next s.dropWrite

end Sys2Proof.Machine
end

