-- ==== Sys2Proof/Machine/Ring.lean ====
section
/-! DEFINITION. The frame-ring controller: REQCAP and AWAIT (41_ring_controller.md R140 to R158). -/

namespace Sys2Proof.Machine

/-- Channel reselection (R142): a posted SELECT_CHANNEL when CTRL.SHARED is 1, nothing when it is 0. -/
def State.reselectChannel (s : State) : State :=
  if s.cfg.shared then s.postRequest (.selectChannel s.cfg.channel) else s

/-- Acceptance of REQCAP (R140 step A): its only check is FRAME_COUNT (R141); ACTIVE_INDEX is set before the queue
request is issued (R143, R144). -/
def State.acceptReqcap (s : State) : State :=
  if s.cfg.frameCount = 0 then s.acceptWord.raise .config
  else
    let s := s.acceptWord.reselectChannel.activate
    (s.sendRequest (.queueCapture s.ring.activeIndex)).toPhase .rqQ

/-- The end of REQCAP when its answer is there (R140 step B, R145, R146); until then the engine waits (R144). -/
def State.endReqcap (s : State) : State :=
  match s.chan.answer with
  | none => s
  | some .fail => s.takeAnswer.raise .queue
  | some .ok => s.takeAnswer.advanceCap.finish

/-- REQCAP (R140): the step its phase enables; while another command runs it is dropped (R44; log 4). -/
def execReqcap (s : State) : Host.Outcome State Fault Refusal :=
  match s.seq.phase with
  | .idle => .next s.acceptReqcap
  | .rqQ => .next s.endReqcap
  | .lutB | .awW | .awQ | .conv => .next s.dropWrite

/-- The checks of AWAIT, the first that fails deciding the error (R148). -/
def State.awaitCheck (s : State) : Option ErrorCode :=
  if !s.status.lutValid then some .seq
  else if s.cfg.frameCount = 0 then some .config
  else if s.cfg.capturesPerFrame = 0 then some .config
  else if !s.regionLegal then some .config
  else if !s.geometryLegal then some .config
  else none

/-- A wait is issued on the slot SYNC_INDEX names (R149). -/
def State.sendWait (s : State) : State := (s.sendRequest (.waitSync s.ring.syncIndex)).toPhase .awW

/-- Acceptance of AWAIT (R147 step A): the multiplicity is sampled once, here (R148). -/
def State.acceptAwait (s : State) : State :=
  match s.awaitCheck with
  | some e => s.acceptWord.raise e
  | none =>
    let s := s.acceptConversion
    State.sendWait { s with seq := { s.seq with burstLeft := s.cfg.capturesPerFrame.toNat } }

/-- The burst re-queue (R151): QUEUE_CAPTURE of ACTIVE_INDEX, no reselection, no index touched. -/
def State.requeue (s : State) : State := (s.sendRequest (.queueCapture s.ring.activeIndex)).toPhase .awQ

/-- The final wait has succeeded (R153): the slot is latched before SYNC_INDEX advances. -/
def State.startAwaitedConversion (s : State) : State :=
  State.toPhase
    (State.advanceSync { s with seq := { s.seq with convSlot := s.ring.syncIndex.toNat, convAdvance := true } }) .conv

/-- One wait of the burst is over (R147 step B). -/
def State.endBurst (s : State) : State :=
  let s := { s with seq := { s.seq with burstLeft := s.seq.burstLeft - 1 } }
  if 0 < s.seq.burstLeft then s.requeue else s.startAwaitedConversion

/-- Step B of AWAIT, when the answer to its wait is there; until then the engine waits, for ever if need be
(R149, R150, R270). -/
def State.endWait (s : State) : State :=
  match s.chan.answer with
  | none => s
  | some .fail => s.takeAnswer.raise .wait
  | some .ok => s.takeAnswer.endBurst

/-- Step C of AWAIT, when the answer to its re-queue is there (R147, R152). -/
def State.endRequeue (s : State) : State :=
  match s.chan.answer with
  | none => s
  | some .fail => s.takeAnswer.raise .queue
  | some .ok => s.takeAnswer.sendWait

/-- AWAIT (R147): the step its phase enables; while another command runs it is dropped (R44; log 4). -/
def execAwait (s : State) : Host.Outcome State Fault Refusal :=
  match s.seq.phase with
  | .idle => .next s.acceptAwait
  | .awW => .next s.endWait
  | .awQ => .next s.endRequeue
  | .conv => if s.seq.convAdvance then s.conversionStep else .next s.dropWrite
  | .lutB | .rqQ => .next s.dropWrite

end Sys2Proof.Machine
end

