-- ==== Sys2Proof/Machine/Dispatch.lean ====
section
/-! DEFINITION. One arm per instruction. -/

namespace Sys2Proof.Machine

def exec (i : Instr) (s : State) : Host.Outcome State Fault Refusal :=
  match i with
  | .buildLut => Sys2Proof.Machine.execBuildLut s
  | .reqcap => Sys2Proof.Machine.execReqcap s
  | .await => Sys2Proof.Machine.execAwait s
  | .convert slot => Sys2Proof.Machine.execConvert slot s
  | .kernelYuv420p => Sys2Proof.Machine.execKernelYuv420p s
  | .kernelYuv422p => Sys2Proof.Machine.execKernelYuv422p s
  | .kernelYuyv => Sys2Proof.Machine.execKernelYuyv s
  | .kernelRgb555 => Sys2Proof.Machine.execKernelRgb555 s
  | .kernelRgb565 => Sys2Proof.Machine.execKernelRgb565 s
  | .kernelRgb24 => Sys2Proof.Machine.execKernelRgb24 s
  | .kernelGrey => Sys2Proof.Machine.execKernelGrey s
  | .kernelOther => Sys2Proof.Machine.execKernelOther s

end Sys2Proof.Machine
end

