-- ==== Sys2Proof/Machine/Device.lean ====
section
/-! DEFINITION. The acts of the capture device (20_memory.md R70 to R75): its answers and the bytes it writes. -/

namespace Sys2Proof.Machine

/-- Whether DEVBUF address `addr` lies in slot `slot` (R64). -/
def State.inSlot (s : State) (slot : SlotIndex) (addr : Nat) : Bool :=
  s.slotAddr slot.toNat ≤ addr && addr < s.slotAddr slot.toNat + s.frameSize

/-- The old DEVBUF values that a kernel or the host may still read once request `r` is answered `a`: the OK answer to WAIT_SYNC makes
every write into its slot visible, and that is the one ordering guarantee (R75; log 25). -/
def State.staleAfter (s : State) (r : DevRequest) (a : DevAnswer) : List Host.Cell :=
  match r, a with
  | .waitSync slot, .ok => s.stale.filter fun c => !s.inSlot slot c.1
  | _, _ => s.stale

/-- The device answers. It answers each non-posted request exactly once (R70); an answer nobody waits for is outside
what the spec gives meaning to (log 19). -/
def State.deliverAnswer (s : State) (a : DevAnswer) : Host.Outcome State Fault Refusal :=
  match s.chan.outstanding, s.chan.answer with
  | some r, none =>
    .next { s with
      stale := s.staleAfter r a
      chan := { s.chan with answer := some a, log := .answered r a :: s.chan.log } }
  | _, _ => .refused .unsolicitedAnswer

/-- A byte written by the device (R73); the engine never writes DEVBUF (R60). The value it replaces is one a kernel or
the host may still read (R75, R79, R267; log 25). -/
def State.deviceWriteByte (s : State) (addr : Word) (value : Byte) : State :=
  { s with
    devbuf := Memory.write s.devbuf addr.toNat value
    stale := (addr.toNat, s.devbufByte addr.toNat) :: s.stale }

end Sys2Proof.Machine
end

