-- ==== Sys2Proof/Machine/HostAccess.lean ====
section
/-! DEFINITION. The register map and what a host read or write of a register does (10_state.md R21 to R36, R41 to R48),
and host reads of SCRATCH and DEVBUF. -/

namespace Sys2Proof.Machine

/-- The table-window entry that lies at word `n` of a window of `size` entries, if there is one. -/
def windowEntry {size : Nat} (n : Nat) (reg : Fin size → Reg) : Reg :=
  if h : n < size then reg ⟨n, h⟩ else .unmapped

/-- The register map (R45). Offsets it assigns nothing to are unmapped. -/
def Reg.ofOffset (offset : Nat) : Reg :=
  if offset < 0x1000 then
    match offset with
    | 0x00 => .cmd
    | 0x04 => .status
    | 0x08 => .ctrl
    | 0x0C => .pixfmt
    | 0x10 => .width
    | 0x14 => .height
    | 0x18 => .frameCount
    | 0x1C => .regionBase
    | 0x20 => .regionSize
    | 0x24 => .capturesPerFrame
    | 0x28 => .channel
    | 0x2C => .capIndex
    | 0x30 => .syncIndex
    | 0x34 => .activeIndex
    | 0x38 => .outDim
    | 0x3C => .outInfo
    | 0x40 => .outAddr
    | 0x44 => .outLen
    | _ => .unmapped
  else if offset < 0x1400 then windowEntry ((offset - 0x1000) / 4) .lutY
  else if offset < 0x1800 then windowEntry ((offset - 0x1400) / 4) .lutUv
  else if offset < 0x1C00 then windowEntry ((offset - 0x1800) / 4) .lutRv
  else if offset < 0x2000 then windowEntry ((offset - 0x1C00) / 4) .lutGu
  else if offset < 0x2400 then windowEntry ((offset - 0x2000) / 4) .lutGv
  else windowEntry ((offset - 0x2400) / 4) .lutBu

/-- Whether the register belongs to the lookup-table window (R48). -/
def Reg.isWindow : Reg → Bool
  | .lutY _ | .lutUv _ | .lutRv _ | .lutGu _ | .lutGv _ | .lutBu _ => true
  | _ => false

/-- The value of a register in a state: reserved bits and unmapped offsets read 0 (R41), CMD reads 0 (R25), window
entries are zero- or sign-extended (R48). -/
def State.regValue (s : State) : Reg → Word
  | .cmd => 0
  | .status => s.statusWord
  | .ctrl => s.ctrlWord
  | .pixfmt => s.cfg.pixfmt.setWidth 32
  | .width => s.cfg.width.setWidth 32
  | .height => s.cfg.height.setWidth 32
  | .frameCount => s.cfg.frameCount.setWidth 32
  | .regionBase => s.cfg.regionBase
  | .regionSize => s.cfg.regionSize
  | .capturesPerFrame => s.cfg.capturesPerFrame.setWidth 32
  | .channel => s.cfg.channel.setWidth 32
  | .capIndex => s.ring.capIndex.setWidth 32
  | .syncIndex => s.ring.syncIndex.setWidth 32
  | .activeIndex => s.ring.activeIndex.setWidth 32
  | .outDim => s.out.dim
  | .outInfo => s.out.info
  | .outAddr => s.out.addr
  | .outLen => s.out.len
  | .lutY c => (s.lut.y[c]).setWidth 32
  | .lutUv c => (s.lut.uv[c]).signExtend 32
  | .lutRv k => (s.lut.rv[k]).signExtend 32
  | .lutGu k => (s.lut.gu[k]).signExtend 32
  | .lutGv k => (s.lut.gv[k]).signExtend 32
  | .lutBu k => (s.lut.bu[k]).signExtend 32
  | .unmapped => 0

/-- A host read of a register (R42). It changes no register (R41). A window read while LUT_VALID is 0 draws a value
(R48, U3; log 12); a read of STATUS that returns DONE = 1 ends the race on SCRATCH (R76; log 11). -/
def State.readReg (s : State) (r : Reg) : State :=
  if r.isWindow && !s.status.lutValid then s.replyDrawn (Config.windowDraw s.host.draws)
  else if r = .status ∧ s.status.done then (s.reply (s.regValue r)).closeRace
  else s.reply (s.regValue r)

/-- A host read of REG: 32 bits at a multiple of 4, or it is not a defined access (R41, U12; log 18). -/
def State.hostReadReg (s : State) (width offset : Nat) : Host.Outcome State Fault Refusal :=
  if width ≠ 32 ∨ offset % 4 ≠ 0 then .refused .badRegAccess
  else .next (s.readReg (Reg.ofOffset offset))

/-- The values other than the present one that a host read of SCRATCH at `addr` may return: the old ones, until the host
has seen DONE (R76; log 11), and the new one of this moment while the conversion runs (R269; log 32). -/
def State.otherScratch (s : State) (addr : Nat) : List Byte :=
  s.host.olderScratch.map (fun m => s.scratchByteIn m addr) ++ s.newScratch addr

/-- A host read of one byte of SCRATCH, below SCRATCH_CAP (R61; log 17): "old or new", exact when nothing races (R76, R269,
U4; log 11). -/
def State.hostReadScratchByte (s : State) (addr : Nat) : Host.Outcome State Fault Refusal :=
  if ¬ addr < Config.scratchCap then .fault .scratchOutOfRange
  else .next (s.replyRacing (s.scratchByte addr) (s.otherScratch addr))

/-- A host read of one byte of DEVBUF (R60): exact once the slot is synced (R78), before that "old or new" like a kernel's,
since no other event orders the device's writes before it (R79; log 25). -/
def State.hostReadDevbufByte (s : State) (addr : Word) : State :=
  s.replyRacing (s.devbufByte addr.toNat) (s.staleBytes addr.toNat)

/-- A write to a configuration register while BUSY is 0: the field's bits are stored, reserved bits are ignored
(R27 to R35); a write to FRAME_COUNT, whatever it writes, clears the three indices (R31). No other register takes a
value this way. -/
def State.writeConfig (s : State) (r : Reg) (v : Word) : State :=
  match r with
  | .ctrl => { s with cfg := { s.cfg with
      shared := v.getLsbD 0, bgrInvert := v.getLsbD 1, strict := v.getLsbD 2 } }
  | .pixfmt => { s with cfg := { s.cfg with pixfmt := v.setWidth 3 } }
  | .width => { s with cfg := { s.cfg with width := v.setWidth 16 } }
  | .height => { s with cfg := { s.cfg with height := v.setWidth 16 } }
  | .frameCount => { s with
      cfg := { s.cfg with frameCount := v.setWidth 8 }
      ring := { capIndex := 0, syncIndex := 0, activeIndex := 0 } }
  | .regionBase => { s with cfg := { s.cfg with regionBase := v } }
  | .regionSize => { s with cfg := { s.cfg with regionSize := v } }
  | .capturesPerFrame => { s with cfg := { s.cfg with capturesPerFrame := v.setWidth 8 } }
  | .channel => { s with cfg := { s.cfg with channel := v.setWidth 8 } }
  | _ => s

/-- Whether the register is one of the nine configuration registers (R44). -/
def Reg.isConfig : Reg → Bool
  | .ctrl | .pixfmt | .width | .height | .frameCount | .regionBase | .regionSize | .capturesPerFrame | .channel => true
  | _ => false

/-- A host write to a register other than CMD: STATUS takes its W1C bit whether or not BUSY is 1 (R26); a configuration
register is written while BUSY is 0 and the write is dropped while it is 1 (R44); read-only registers and unmapped
offsets ignore writes (R41). -/
def State.writeReg (s : State) (r : Reg) (v : Word) : State :=
  if r = .status then (if v.getLsbD 4 then s.clearOvr else s)
  else if r.isConfig then (if s.busy then s.dropWrite else s.writeConfig r v)
  else s

end Sys2Proof.Machine
end

