-- ==== Sys2Proof/Machine/Fetch.lean ====
section
/-! DEFINITION. What the machine does next: the next event of the agenda, or the engine's own step. There is no program
counter and nothing is fetched from memory (10_state.md R37): a command is the word the host writes to CMD (R25), a kernel
is what PIXFMT selects when a conversion runs (R101), and a command that has begun goes on by its phase (R38). -/

namespace Sys2Proof.Machine

/-- The instruction whose step the engine's phase enables (R38); none while IDLE (R275). In CONV it is the kernel of
PIXFMT.FMT (R101). -/
def State.running (s : State) : Option Instr :=
  match s.seq.phase with
  | .idle => none
  | .lutB => some .buildLut
  | .rqQ => some .reqcap
  | .awW | .awQ => some .await
  | .conv => some (decodeTag s.cfg.pixfmt)

/-- A turn of the engine: "no engine step is enabled until the host writes CMD" while it is quiescent (R275). -/
def State.engineTurn (s : State) : Turn :=
  match s.running with
  | some i => .run i s
  | none => .over (.next s)

/-- A word written to CMD: dropped while BUSY is 1 (R25, R44); otherwise decoded, an illegal word ending at once with
ERR_ILLEGAL (R96, R99). -/
def State.commandTurn (s : State) (w : Word) : Turn :=
  if s.busy then .over (.next s.dropWrite)
  else match decodeCommand w with
    | .ok i => .run i s
    | .error _ => .over (.next (s.acceptWord.raise .illegal))

/-- A host write to REG (R41). -/
def State.hostWriteTurn (s : State) (width offset : Nat) (v : Word) : Turn :=
  if width ≠ 32 ∨ offset % 4 ≠ 0 then .over (.refused .badRegAccess)
  else match Reg.ofOffset offset with
    | .cmd => s.commandTurn v
    | r => .over (.next (s.writeReg r v))

/-- What an event makes the machine do. -/
def State.eventTurn (s : State) : Event → Turn
  | .engine => s.engineTurn
  | .hostWrite width offset v => s.hostWriteTurn width offset v
  | .hostRead width offset => .over (s.hostReadReg width offset)
  | .hostReadScratch addr => .over (s.hostReadScratchByte addr)
  | .hostReadDevbuf addr => .over (.next (s.hostReadDevbufByte addr))
  | .deviceAnswer a => .over (s.deliverAnswer a)
  | .deviceWrite addr b => .over (.next (s.deviceWriteByte addr b))
  | .reset deviceTornDown => .over (s.takeReset deviceTornDown)

/-- The machine's next turn: the first event of the agenda; with an empty agenda the engine goes on alone (log 1,
log 3). -/
def State.nextTurn (s : State) : Turn :=
  match s.agenda with
  | [] => s.engineTurn
  | e :: rest => State.eventTurn { s with agenda := rest } e

/-- Put a command word where the next step takes it from: the host's next act is the write of `w` to CMD, and the engine
is idle, as it must be to accept one (R25, R96). -/
def State.placeCommand (s : State) (w : Word) : State :=
  { s with seq := { s.seq with phase := .idle }, agenda := .hostWrite 32 0x00 w :: s.agenda }

/-- Put a format tag where the next step takes it from: PIXFMT holds it, a conversion is running, and the engine has the
next turn (R98, R101). -/
def State.placeTag (s : State) (t : BitVec 3) : State :=
  { s with cfg := { s.cfg with pixfmt := t }, seq := { s.seq with phase := .conv }, agenda := .engine :: s.agenda }

end Sys2Proof.Machine
end

