-- ==== Sys2Proof/Machine/Step.lean ====
section
/-! DEFINITION. One step of the machine, and how an instruction is placed where the next step runs it. -/

namespace Sys2Proof.Machine

/-- One step: the instruction the next turn runs, or the outcome it reaches without one. -/
def step (s : State) : Host.Outcome State Fault Refusal :=
  match s.nextTurn with
  | .run i s' => exec i s'
  | .over o => o

/-- The state in which the very next step runs the instruction whose `nbits` bits are `w`: a command word is the host's
next write to CMD, a format tag is PIXFMT in a running conversion (log 1, log 29). -/
def State.withFetchWord (s : State) (nbits w : Nat) : State :=
  if isTagLength nbits then s.placeTag (BitVec.ofNat 3 w) else s.placeCommand (BitVec.ofNat 32 w)

end Sys2Proof.Machine
end

