-- ==== Sys2Proof/Safety.lean ====
section
/-! DEFINITION. What counts as a sound state and a safe run, in the terms the statements use: the invariant every step
keeps, and the premises the spec puts on the host and on the device (R73, R74, R262 to R268), which the engine does not
check. -/

namespace Sys2Proof.Safety

open Sys2Proof.Machine

/-! ### The invariant -/

/-- The ring invariant (10_state.md R24): each index below FRAME_COUNT, all three 0 when it is 0. -/
def ringInRange (s : State) : Prop :=
  if s.cfg.frameCount = 0 then s.ring = { capIndex := 0, syncIndex := 0, activeIndex := 0 }
  else s.ring.capIndex < s.cfg.frameCount ∧ s.ring.syncIndex < s.cfg.frameCount
    ∧ s.ring.activeIndex < s.cfg.frameCount

/-- The status flags agree with the phase and the descriptor: DONE and ERR are clear while BUSY (R96), a failure code
comes with DONE (R236), only the codes 0 to 5 occur (R230), and the descriptor reads 0 while OUT_VALID is 0 (R36). -/
def statusConsistent (s : State) : Prop :=
  (s.busy = true → s.status.done = false ∧ s.status.err = 0)
    ∧ (s.status.err ≠ 0 → s.status.done = true)
    ∧ s.status.err.toNat ≤ 5
    ∧ (s.status.outValid = false → s.out = .zero)

/-- While LUT_VALID is 1 the tables hold the values of BUILD_LUT (R26, R46). -/
def tablesBuilt (s : State) : Prop := s.status.lutValid = true → s.lut = builtTables

/-- The device channel holds the request the phase waits for, and nothing in the phases that wait for none (R38, R70). -/
def channelMatchesPhase (s : State) : Prop :=
  match s.seq.phase with
  | .idle | .lutB | .conv => s.chan.outstanding = none ∧ s.chan.answer = none
  | .rqQ | .awQ => s.chan.outstanding = some (.queueCapture s.ring.activeIndex)
  | .awW => s.chan.outstanding = some (.waitSync s.ring.syncIndex)

/-- What the acceptance checks of AWAIT and CONVERT have established, which lasts while the command runs, since
configuration writes are dropped (R44, R148, R183). -/
def conversionLegal (s : State) : Prop :=
  s.status.lutValid = true ∧ s.cfg.frameCount ≠ 0 ∧ s.regionLegal = true ∧ s.geometryLegal = true
    ∧ s.status.outValid = false

/-- The sequencer agrees with the registers (R38, R39). -/
def sequencerLegal (s : State) : Prop :=
  match s.seq.phase with
  | .idle => True
  | .lutB => s.status.lutValid = false
  | .rqQ => s.cfg.frameCount ≠ 0
  | .awW | .awQ => conversionLegal s ∧ 1 ≤ s.seq.burstLeft ∧ s.seq.burstLeft ≤ s.cfg.capturesPerFrame.toNat
  | .conv => conversionLegal s ∧ s.seq.convSlot < s.cfg.frameCount.toNat

/-- Both memories, and the contents of SCRATCH that the host may still see, are in canonical form and list no address that
does not exist (R60, R61). -/
def memoriesLegal (s : State) : Prop :=
  Memory.wf s.scratch ∧ Memory.wf s.devbuf
    ∧ (∀ c ∈ s.scratch, c.1 < Config.scratchCap) ∧ (∀ c ∈ s.devbuf, c.1 < 2 ^ 32)
    ∧ (∀ m ∈ s.host.olderScratch, Memory.wf m ∧ ∀ c ∈ m, c.1 < Config.scratchCap) ∧ (∀ c ∈ s.stale, c.1 < 2 ^ 32)

/-- The invariant of the engine: it holds at reset and every step keeps it. -/
structure Inv (s : State) : Prop where
  ring : ringInRange s
  status : statusConsistent s
  tables : tablesBuilt s
  channel : channelMatchesPhase s
  sequencer : sequencerLegal s
  memories : memoriesLegal s

/-! ### Premises on the host and on the device -/

/-- Address `addr` lies in a slot whose capture the device still holds. -/
def inQueuedSlot (s : State) (addr : Nat) : Prop :=
  ∃ slot ∈ queuedSlots s.chan.log,
    s.slotAddr slot.toNat ≤ addr ∧ addr < s.slotAddr slot.toNat + s.frameSize

/-- "Between the OK answer to QUEUE_CAPTURE(`s`) and the answer to the matching WAIT_SYNC(`s`) the device may write any
bytes of slot `s`" and "Outside such an interval it writes nothing into slot `s`" (20_memory.md R73; log 22). -/
def deviceMayWrite (s : State) (addr : Word) : Prop := inQueuedSlot s addr.toNat

/-- "a slot must not be requested again before its prior completion has been consumed" (70_reset_and_hazards.md R265):
the host may issue REQCAP when the slot CAP_INDEX names is not queued. -/
def hostMayRequest (s : State) : Prop := s.ring.capIndex ∉ queuedSlots s.chan.log

/-- CONVERT must "name only a slot that is not queued" (R267). -/
def hostMayConvert (s : State) (slot : Nat) : Prop := BitVec.ofNat 8 slot ∉ queuedSlots s.chan.log

/-- "the ring registers are written only when nothing is queued" (R264). -/
def hostMaySetRing (s : State) : Prop := queuedSlots s.chan.log = []

/-- The input race of R267 lies inside the queued slots: no other byte has an old value that a kernel could still read. The
premises on the host and on the device keep it so. -/
def raceOnlyWhereQueued (s : State) : Prop := ∀ c ∈ s.stale, inQueuedSlot s c.1

/-- The engine is quiescent (R275). -/
def quiescent (s : State) : Prop := s.seq.phase = .idle

end Sys2Proof.Safety
end

