-- ==== Sys2Proof/Certificates/Slice0/Obligations.lean ====
section
/-! DEFINITION. The statements for the provers. Each docstring names the rules of spec/ the statement formalises. The
definitions under `Sys2Proof.Claims` are written from the spec's tables, not from the model's functions. -/

namespace Sys2Proof.Claims

open Sys2Proof.Machine

/-- The geometry and size table of 42_convert_yuv.md R171, row by row, with `frame_size` written out (R63). -/
def geometryOfR171 (s : State) : Prop :=
  let w := s.cfg.width.toNat
  let h := s.cfg.height.toNat
  let p := w * h
  let frameSize := s.cfg.regionSize.toNat / s.cfg.frameCount.toNat
  match s.cfg.pixfmt.toNat with
  | 0 => 2 ≤ w ∧ 2 ≤ h ∧ w % 2 = 0 ∧ h % 2 = 0 ∧ 3 * p / 2 ≤ frameSize ∧ p ≤ Config.maxPixels
  | 1 => 2 ≤ w ∧ 1 ≤ h ∧ w % 2 = 0 ∧ 2 * p ≤ frameSize ∧ p ≤ Config.maxPixels
  | 2 => 2 ≤ w ∧ 1 ≤ h ∧ w % 2 = 0 ∧ 2 * p ≤ frameSize ∧ p ≤ Config.maxPixels
  | 3 => 1 ≤ w ∧ 1 ≤ h ∧ 2 * p ≤ frameSize ∧ p ≤ Config.maxPixels
  | 4 => 1 ≤ w ∧ 1 ≤ h ∧ 2 * p ≤ frameSize ∧ p ≤ Config.maxPixels
  | 5 => 1 ≤ w ∧ 1 ≤ h ∧ 3 * p ≤ frameSize ∧ (s.cfg.bgrInvert = true → p ≤ Config.maxPixels)
  | 6 => 1 ≤ w ∧ 1 ≤ h ∧ p ≤ frameSize
  | _ => 1 ≤ w ∧ 1 ≤ h

/-- `REGION_BASE + REGION_SIZE <= 2^32` (R233 (d)). -/
def regionOfR233 (s : State) : Prop := s.cfg.regionBase.toNat + s.cfg.regionSize.toNat ≤ 2 ^ 32

/-- A command refused or failed at acceptance with code `code`: DONE and ERR, and nothing else (R236). -/
def refusedWith (s : State) (code : BitVec 4) : State :=
  { s with status := { s.status with done := true, err := code } }

/-- What a conversion step leaves alone and the flags it sets (R170): the command is done with OUT_VALID. Of the model's own
host fields a converting kernel changes the two that record the image (log 11, log 25). -/
def conversionFrame (s t : State) : Prop :=
  t.ring = s.ring ∧ t.cfg = s.cfg ∧ t.lut = s.lut ∧ t.devbuf = s.devbuf ∧ t.stale = s.stale ∧ t.chan = s.chan
    ∧ t.agenda = s.agenda
    ∧ t.host = { s.host with olderScratch := t.host.olderScratch, conversions := t.host.conversions }
    ∧ t.status = { s.status with done := true, outValid := true, err := 0 }
    ∧ t.seq = { s.seq with phase := .idle }

/-- The descriptor of R173 with the OUT_INFO word the format has there, SCRATCH unchanged from `3 * W * H` on (R61), the
frame of a conversion step, and what SCRATCH held before kept among what the host may still see (R76). OUT_LEN is left open
where `3 * W * H` does not fit its 32 bits, which an accepted command can reach if MAX_PIXELS is large (log 16). -/
def scratchConversion (s t : State) (info : Word) : Prop :=
  conversionFrame s t ∧ t.host.olderScratch = s.scratch :: s.host.olderScratch
    ∧ t.out.dim = s.cfg.height ++ s.cfg.width ∧ t.out.info = info ∧ t.out.addr = 0
    ∧ (3 * (s.cfg.width.toNat * s.cfg.height.toNat) < 2 ^ 32 →
        t.out.len.toNat = 3 * (s.cfg.width.toNat * s.cfg.height.toNat))
    ∧ ∀ a, 3 * (s.cfg.width.toNat * s.cfg.height.toNat) ≤ a → Memory.read t.scratch a = Memory.read s.scratch a

/-- `b` is a value that the running conversion may read for `in[k]`: the byte DEVBUF holds, or, in a race with the device,
an old value of it (R267, R75). Where nothing races, `in[k]` is the one value. -/
def mayRead (s : State) (k : Nat) (b : Byte) : Prop := b = s.inByte k ∨ (s.slice + k, b) ∈ s.stale

/-- No old value of `in[k]` can be read: nothing races there. -/
def settledAt (s : State) (k : Nat) : Prop := ∀ b, (s.slice + k, b) ∉ s.stale

/-- The three bytes of pixel `p` stand in SCRATCH, R, G, B in rising addresses (R172). -/
def pixelIs (t : State) (p : Nat) (r g b : Byte) : Prop :=
  Memory.read t.scratch (3 * p) = some r ∧ Memory.read t.scratch (3 * p + 1) = some g
    ∧ Memory.read t.scratch (3 * p + 2) = some b

/-- What a host read of SCRATCH at `a` may return: the byte that stands there, the old ones, and the one the running
conversion would leave if its step came now (R76, R269; log 11, log 32). -/
def scratchViews (s : State) (a : Nat) : List Byte :=
  s.scratchByte a :: (s.host.olderScratch.map (fun m => s.scratchByteIn m a) ++ s.newScratch a)

/-- The pixel `(y, u, v)` gives, by the table entries of the state (R177). -/
def yuvPixelIs (s t : State) (p : Nat) (y u v : Int) : Prop :=
  pixelIs t p (clamp8 (y + signedEntry s.lut.rv v))
    (clamp8 (y - (signedEntry s.lut.gu u + signedEntry s.lut.gv v)))
    (clamp8 (y + signedEntry s.lut.bu u))

/-- The events of one CAPTURE with CPF = 1 whose two answers are OK: REQCAP, its answer and the engine's step; AWAIT, its
answer, the engine's step and the conversion step (R103, R140, R147). -/
def captureCycle : List Event :=
  [.hostWrite 32 0x00 2, .deviceAnswer .ok, .engine, .hostWrite 32 0x00 3, .deviceAnswer .ok, .engine, .engine]

/-- The events of `n` answers, each OK and each followed by the engine's step. -/
def okAnswers (n : Nat) : List Event := (List.replicate n [Event.deviceAnswer .ok, Event.engine]).flatten

end Sys2Proof.Claims

open Sys2Proof Sys2Proof.Machine Sys2Proof.Safety Sys2Proof.Claims

/-! ### Encoding -/

/-- Decoding an encoded well-formed instruction gives it back, every slot included (R91 to R98). -/
def Obligations.DecodeOfEncodeIsIdentity : Prop :=
  ∀ i : Instr, i.wf = true → decode (encode i) = .ok i

/-- Each legal code has one meaning: it is the encoding of what it decodes to, which is well formed (R91 to R98). -/
def Obligations.EncodeOfDecodeIsIdentity : Prop :=
  ∀ (c : Code) (i : Instr), decode c = .ok i → encode i = c ∧ i.wf = true

/-- The decoder summary of R104: the five cases, and that exactly 259 words are legal. -/
def Obligations.DecoderFollowsSummary : Prop :=
  (∀ w : Word,
    (w = 0x00000001 → decodeCommand w = .ok .buildLut)
    ∧ (w = 0x00000002 → decodeCommand w = .ok .reqcap)
    ∧ (w = 0x00000003 → decodeCommand w = .ok .await)
    ∧ (w &&& 0xFFFF00FF = 0x00000004 → decodeCommand w = .ok (.convert ((w >>> 8) &&& 0xFF).toNat))
    ∧ (w ≠ 0x00000001 → w ≠ 0x00000002 → w ≠ 0x00000003 → w &&& 0xFFFF00FF ≠ 0x00000004 →
        ∃ e, decodeCommand w = .error e))
  ∧ Set.ncard {w : Word | ∃ i, decodeCommand w = .ok i} = 259

/-- The words of 95_test_vectors.md V7. -/
def Obligations.SampleWordsDecode : Prop :=
  decodeCommand 0x00000001 = .ok .buildLut ∧ decodeCommand 0x00000002 = .ok .reqcap
    ∧ decodeCommand 0x00000003 = .ok .await ∧ decodeCommand 0x00000004 = .ok (.convert 0)
    ∧ decodeCommand 0x00000104 = .ok (.convert 1) ∧ decodeCommand 0x0000FF04 = .ok (.convert 255)
    ∧ (decodeCommand 0x00000000).toOption = none ∧ (decodeCommand 0x00000013).toOption = none
    ∧ (decodeCommand 0x00000101).toOption = none ∧ (decodeCommand 0x80000004).toOption = none

/-- The tag table of R98. -/
def Obligations.TagsSelectKernels : Prop :=
  decode (.tag 0) = .ok .kernelYuv420p ∧ decode (.tag 1) = .ok .kernelYuv422p ∧ decode (.tag 2) = .ok .kernelYuyv
    ∧ decode (.tag 3) = .ok .kernelRgb555 ∧ decode (.tag 4) = .ok .kernelRgb565 ∧ decode (.tag 5) = .ok .kernelRgb24
    ∧ decode (.tag 6) = .ok .kernelGrey ∧ decode (.tag 7) = .ok .kernelOther

/-! ### What a step runs -/

/-- A word the host writes to CMD while the engine is IDLE runs as the instruction it decodes to (R25, R96). The event is
taken off the agenda first (log 1). -/
def Obligations.StepRunsWrittenCommand : Prop :=
  ∀ (s : State) (w : Word) (rest : List Event) (i : Instr),
    s.agenda = .hostWrite 32 0x00 w :: rest → s.seq.phase = .idle → decodeCommand w = .ok i →
      step s = exec i { s with agenda := rest }

/-- A turn of the engine runs the step its phase enables: the command in progress, or in CONV the kernel that PIXFMT
selects; IDLE enables none (R38, R101, R275). With an empty agenda the engine has the turn (log 3). -/
def Obligations.StepRunsWhatThePhaseEnables : Prop :=
  ∀ (s s' : State),
    (s.agenda = [] ∧ s' = s) ∨ (∃ rest, s.agenda = .engine :: rest ∧ s' = { s with agenda := rest }) →
      (s.seq.phase = .idle → step s = .next s')
      ∧ (s.seq.phase = .lutB → step s = exec .buildLut s')
      ∧ (s.seq.phase = .rqQ → step s = exec .reqcap s')
      ∧ (s.seq.phase = .awW ∨ s.seq.phase = .awQ → step s = exec .await s')
      ∧ (s.seq.phase = .conv → ∀ i, decode (.tag s.cfg.pixfmt) = .ok i → step s = exec i s')

/-- An illegal word written while the engine is IDLE ends at once with ERR_ILLEGAL, BUSY never set and nothing else
changed; what R99 does not call illegal decodes to one of the four operations. -/
def Obligations.IllegalWordEndsAtOnce : Prop :=
  ∀ w : Word,
    (w.extractLsb' 0 4 = 0 ∨ 5 ≤ (w.extractLsb' 0 4).toNat ∨ w.extractLsb' 4 4 ≠ 0 ∨ w.extractLsb' 16 16 ≠ 0
        ∨ (w.extractLsb' 8 8 ≠ 0 ∧ w.extractLsb' 0 4 ≠ 4) →
      ∀ (s : State) (rest : List Event), s.agenda = .hostWrite 32 0x00 w :: rest → s.seq.phase = .idle →
        step s = .next (refusedWith { s with agenda := rest } 4))
    ∧ (¬ (w.extractLsb' 0 4 = 0 ∨ 5 ≤ (w.extractLsb' 0 4).toNat ∨ w.extractLsb' 4 4 ≠ 0 ∨ w.extractLsb' 16 16 ≠ 0
        ∨ (w.extractLsb' 8 8 ≠ 0 ∧ w.extractLsb' 0 4 ≠ 4)) →
      decodeCommand w = .ok .buildLut ∨ decodeCommand w = .ok .reqcap ∨ decodeCommand w = .ok .await
        ∨ ∃ slot, decodeCommand w = .ok (.convert slot))

/-! ### Host accesses -/

/-- While BUSY is 1 a write to CMD or to a configuration register changes nothing except that it sets OVR; a write to
STATUS is not dropped (R44). -/
def Obligations.WritesWhileBusyAreDropped : Prop :=
  ∀ (s : State) (v : Word) (offset : Nat) (rest : List Event),
    s.agenda = .hostWrite 32 offset v :: rest → s.seq.phase ≠ .idle →
      (offset ∈ [0x00, 0x08, 0x0C, 0x10, 0x14, 0x18, 0x1C, 0x20, 0x24, 0x28] →
        step s = .next { s with agenda := rest, status := { s.status with ovr := true } })
      ∧ (offset = 0x04 → step s =
          .next { s with agenda := rest, status := { s.status with ovr := s.status.ovr && !v.getLsbD 4 } })

/-- A write to STATUS affects only OVR: a 1 in bit 4 clears it, a 0 leaves it, whatever the phase (R26). -/
def Obligations.StatusWriteClearsOvrOnly : Prop :=
  ∀ (s : State) (v : Word) (rest : List Event), s.agenda = .hostWrite 32 0x04 v :: rest →
    step s = .next { s with agenda := rest, status := { s.status with ovr := s.status.ovr && !v.getLsbD 4 } }

/-- Writes to the configuration registers while BUSY is 0 store the field and ignore the reserved bits; FRAME_COUNT also
clears the three indices (R27 to R35). -/
def Obligations.ConfigurationWritesStoreFields : Prop :=
  ∀ (s : State) (v : Word) (offset : Nat) (rest : List Event),
    s.agenda = .hostWrite 32 offset v :: rest → s.seq.phase = .idle →
      (offset = 0x08 → step s = .next { s with agenda := rest, cfg := { s.cfg with
          shared := v.getLsbD 0, bgrInvert := v.getLsbD 1, strict := v.getLsbD 2 } })
      ∧ (offset = 0x0C → step s = .next { s with agenda := rest, cfg := { s.cfg with pixfmt := v.extractLsb' 0 3 } })
      ∧ (offset = 0x10 → step s = .next { s with agenda := rest, cfg := { s.cfg with width := v.extractLsb' 0 16 } })
      ∧ (offset = 0x14 → step s = .next { s with agenda := rest, cfg := { s.cfg with height := v.extractLsb' 0 16 } })
      ∧ (offset = 0x18 → step s = .next { s with
            agenda := rest
            cfg := { s.cfg with frameCount := v.extractLsb' 0 8 }
            ring := { capIndex := 0, syncIndex := 0, activeIndex := 0 } })
      ∧ (offset = 0x1C → step s = .next { s with agenda := rest, cfg := { s.cfg with regionBase := v } })
      ∧ (offset = 0x20 → step s = .next { s with agenda := rest, cfg := { s.cfg with regionSize := v } })
      ∧ (offset = 0x24 → step s = .next { s with
            agenda := rest
            cfg := { s.cfg with capturesPerFrame := v.extractLsb' 0 8 } })
      ∧ (offset = 0x28 → step s = .next { s with agenda := rest, cfg := { s.cfg with channel := v.extractLsb' 0 8 } })

/-- A read of STATUS returns the flags at the bits of R26 and 0 at the reserved bits; it changes no state but what the
host has seen. -/
def Obligations.StatusReadReturnsFlags : Prop :=
  ∀ (s : State) (rest : List Event), s.agenda = .hostRead 32 0x04 :: rest →
    ∃ t, step s = .next t ∧ t = { s with agenda := rest, host := t.host }
      ∧ t.host.data.getLsbD 0 = decide (s.seq.phase ≠ .idle) ∧ t.host.data.getLsbD 1 = s.status.done
      ∧ t.host.data.getLsbD 2 = s.status.lutValid ∧ t.host.data.getLsbD 3 = s.status.outValid
      ∧ t.host.data.getLsbD 4 = s.status.ovr ∧ t.host.data.extractLsb' 5 3 = 0
      ∧ t.host.data.extractLsb' 8 4 = s.status.err ∧ t.host.data.extractLsb' 12 20 = 0

/-- Reads of the other registers return their fields, zero-extended, with CTRL at the bits of R27; CMD reads 0; no register
changes (R21 to R36, R41). -/
def Obligations.RegisterReadsReturnFields : Prop :=
  ∀ (s : State) (offset : Nat) (v : Word) (rest : List Event), s.agenda = .hostRead 32 offset :: rest →
    (offset = 0x00 ∧ v = 0
      ∨ offset = 0x08 ∧ v.getLsbD 0 = s.cfg.shared ∧ v.getLsbD 1 = s.cfg.bgrInvert ∧ v.getLsbD 2 = s.cfg.strict
          ∧ v.extractLsb' 3 29 = 0
      ∨ offset = 0x0C ∧ v.toNat = s.cfg.pixfmt.toNat ∨ offset = 0x10 ∧ v.toNat = s.cfg.width.toNat
      ∨ offset = 0x14 ∧ v.toNat = s.cfg.height.toNat ∨ offset = 0x18 ∧ v.toNat = s.cfg.frameCount.toNat
      ∨ offset = 0x1C ∧ v = s.cfg.regionBase ∨ offset = 0x20 ∧ v = s.cfg.regionSize
      ∨ offset = 0x24 ∧ v.toNat = s.cfg.capturesPerFrame.toNat ∨ offset = 0x28 ∧ v.toNat = s.cfg.channel.toNat
      ∨ offset = 0x2C ∧ v.toNat = s.ring.capIndex.toNat ∨ offset = 0x30 ∧ v.toNat = s.ring.syncIndex.toNat
      ∨ offset = 0x34 ∧ v.toNat = s.ring.activeIndex.toNat
      ∨ offset = 0x38 ∧ v = s.out.dim ∨ offset = 0x3C ∧ v = s.out.info
      ∨ offset = 0x40 ∧ v = s.out.addr ∨ offset = 0x44 ∧ v = s.out.len) →
    step s = .next { s with agenda := rest, host := { s.host with data := v } }

/-- A REG access that is not 32 bits wide or not at a multiple of 4 is refused; an unmapped offset reads 0; a write to an
unmapped offset or to a read-only register is ignored (R41, R45). -/
def Obligations.UndefinedAndReadOnlyAccesses : Prop :=
  ∀ (s : State) (width offset : Nat) (v : Word) (rest : List Event),
    (width ≠ 32 ∨ offset % 4 ≠ 0 →
      (s.agenda = .hostRead width offset :: rest ∨ s.agenda = .hostWrite width offset v :: rest) →
        step s = .refused .badRegAccess)
    ∧ (width = 32 → offset % 4 = 0 →
        ((0x48 ≤ offset ∧ offset < 0x1000) ∨ offset = 0x1BFC ∨ offset = 0x1FFC ∨ offset = 0x23FC ∨ 0x27FC ≤ offset) →
        s.agenda = .hostRead width offset :: rest →
        step s = .next { s with agenda := rest, host := { s.host with data := 0 } })
    ∧ (width = 32 → offset % 4 = 0 → 0x2C ≤ offset →
        s.agenda = .hostWrite width offset v :: rest → step s = .next { s with agenda := rest })

/-- While LUT_VALID is 1 the table window returns the entries: Y zero-extended, the others sign-extended (R45, R48). -/
def Obligations.WindowReadsReturnEntries : Prop :=
  ∀ (s : State) (offset : Nat) (v : Word) (rest : List Event),
    s.status.lutValid = true → s.agenda = .hostRead 32 offset :: rest →
    ((∃ c : Fin 256, offset = 0x1000 + 4 * c ∧ (v.toNat : Int) = s.lut.yAt (BitVec.ofNat 8 c))
      ∨ (∃ c : Fin 256, offset = 0x1400 + 4 * c ∧ v.toInt = s.lut.uvAt (BitVec.ofNat 8 c))
      ∨ (∃ k : Int, -127 ≤ k ∧ k ≤ 127 ∧ (offset : Int) = 0x1800 + 4 * (k + 127) ∧ v.toInt = signedEntry s.lut.rv k)
      ∨ (∃ k : Int, -127 ≤ k ∧ k ≤ 127 ∧ (offset : Int) = 0x1C00 + 4 * (k + 127) ∧ v.toInt = signedEntry s.lut.gu k)
      ∨ (∃ k : Int, -127 ≤ k ∧ k ≤ 127 ∧ (offset : Int) = 0x2000 + 4 * (k + 127) ∧ v.toInt = signedEntry s.lut.gv k)
      ∨ (∃ k : Int, -127 ≤ k ∧ k ≤ 127 ∧ (offset : Int) = 0x2400 + 4 * (k + 127) ∧ v.toInt = signedEntry s.lut.bu k)) →
    step s = .next { s with agenda := rest, host := { s.host with data := v } }

/-- While LUT_VALID is 0 a window read returns a fresh draw, not the stored entry (R48; log 12), and changes nothing
else. -/
def Obligations.WindowReadsBeforeBuildAreDraws : Prop :=
  ∀ (s : State) (offset : Nat) (rest : List Event),
    s.status.lutValid = false → s.agenda = .hostRead 32 offset :: rest → offset % 4 = 0 → 0x1000 ≤ offset →
      offset ≤ 0x27F8 → offset ≠ 0x1BFC → offset ≠ 0x1FFC → offset ≠ 0x23FC →
      step s = .next { s with
        agenda := rest
        host := { s.host with data := Config.windowDraw s.host.draws, draws := s.host.draws + 1 } }

/-- A host that has read STATUS with DONE = 1 reads every SCRATCH byte exactly, even where it raced before (R76). From
SCRATCH_CAP on there is no byte (R61); that a read there faults is the model's choice (log 17). -/
def Obligations.ScratchReadsAreExactAfterDone : Prop :=
  ∀ (s : State) (a : Nat) (rest : List Event),
    s.agenda = .hostRead 32 0x04 :: .hostReadScratch a :: rest → s.status.done = true →
      (a < Config.scratchCap → ∃ t, Host.Core.run core 2 s = .next t ∧ t.agenda = rest
        ∧ t.host.data = (s.scratchByte a).setWidth 32 ∧ t.scratch = s.scratch)
      ∧ (Config.scratchCap ≤ a → Host.Core.run core 2 s = .fault .scratchOutOfRange)

/-- Until the host reads STATUS with DONE = 1 a SCRATCH byte is old or new to it, and never anything else (R69, R76, R269).
A read returns one of `scratchViews`, which one is free (log 11). The new byte is the one that the conversion step leaves if
it comes next, so a device write in between may change it (the model's choice, log 32); outside the phase CONV there is none. The conversion step keeps what SCRATCH held before, and every step but a reset and that
STATUS read keeps what was kept. -/
def Obligations.ScratchReadsRaceUntilDone : Prop :=
  (∀ (s : State) (a : Nat) (rest : List Event), s.agenda = .hostReadScratch a :: rest → a < Config.scratchCap →
    ∃ (t : State) (b : Byte), step s = .next t
      ∧ t = { s with agenda := rest, host := { s.host with data := b.setWidth 32, draws := t.host.draws } }
      ∧ (scratchViews s a)[Config.hostView s.host.draws % (scratchViews s a).length]? = some b
      ∧ (1 < (scratchViews s a).length → t.host.draws = s.host.draws + 1))
  ∧ (∀ (s t : State) (a : Nat), s.seq.phase = .conv → s.status.done = false →
      usesScratch s.format s.cfg.bgrInvert = true → exec s.format.kernel s = .next t →
      t.host.olderScratch = s.scratch :: s.host.olderScratch
      ∧ (a < 3 * (s.cfg.width.toNat * s.cfg.height.toNat) →
          ∃ b, s.newScratch a = [b] ∧ Memory.read t.scratch a = some b)
      ∧ (3 * (s.cfg.width.toNat * s.cfg.height.toNat) ≤ a → s.newScratch a = []))
  ∧ (∀ (s : State) (a : Nat), s.seq.phase ≠ .conv → s.newScratch a = [])
  ∧ (∀ s t : State, step s = .next t → (∀ d rest, s.agenda ≠ .reset d :: rest) →
      (s.status.done = true → ∀ rest, s.agenda ≠ .hostRead 32 0x04 :: rest) →
      s.host.olderScratch <:+ t.host.olderScratch)

/-- A device write leaves its byte in DEVBUF and every other byte as it was, and the replaced byte becomes an old value
(R60; log 25). A host read returns the byte or an old value of it, so the byte alone where it has no old value (R79; log 25).
Once the OK answer to WAIT_SYNC has come, the byte the device wrote last into the slot is what the host reads there, and any
other byte of the slot as DEVBUF holds it (R75, R78). -/
def Obligations.DevbufReadsReturnTheLatestWrite : Prop :=
  (∀ (s : State) (a : Word) (b : Byte) (rest : List Event), s.agenda = .deviceWrite a b :: rest →
    ∃ t, step s = .next t
      ∧ t = { s with agenda := rest, devbuf := t.devbuf, stale := (a.toNat, s.devbufByte a.toNat) :: s.stale }
      ∧ ∀ c, t.devbufByte c = if c = a.toNat then b else s.devbufByte c)
  ∧ (∀ (s : State) (c : Word) (rest : List Event), s.agenda = .hostReadDevbuf c :: rest →
    ∃ (t : State) (b : Byte), step s = .next t
      ∧ t = { s with agenda := rest, host := { s.host with data := b.setWidth 32, draws := t.host.draws } }
      ∧ (b = s.devbufByte c.toNat ∨ (c.toNat, b) ∈ s.stale))
  ∧ (∀ (s : State) (a c : Word) (b : Byte) (slot : SlotIndex) (rest : List Event),
    s.agenda = .deviceWrite a b :: .deviceAnswer .ok :: .hostReadDevbuf c :: rest →
    s.chan.outstanding = some (.waitSync slot) → s.chan.answer = none →
    s.slotAddr slot.toNat ≤ c.toNat → c.toNat < s.slotAddr slot.toNat + s.frameSize →
    ∃ t, Host.Core.run core 3 s = .next t ∧ t.agenda = rest
      ∧ t.host.data.toNat = if c = a then b.toNat else (s.devbufByte c.toNat).toNat)

/-! ### BUILD_LUT -/

/-- Acceptance of BUILD_LUT: phase LUTB, or ERR_SEQ when the tables are already built, with nothing else changed
(R120, R234). -/
def Obligations.BuildLutAcceptance : Prop :=
  ∀ s : State, s.seq.phase = .idle →
    (s.status.lutValid = false → exec .buildLut s = .next { s with
        status := { s.status with done := false, err := 0 }, seq := { s.seq with phase := .lutB } })
    ∧ (s.status.lutValid = true → exec .buildLut s = .next (refusedWith s 5))

/-- The build step writes Y and UV (R121, R122), sets LUT_VALID and is done; everything but the tables, the flags and the
phase stays. -/
def Obligations.BuildLutWritesLumaAndChromaTables : Prop :=
  ∀ s : State, s.seq.phase = .lutB →
    ∃ t, exec .buildLut s = .next t
      ∧ (∀ c : Byte, (c.toNat ≤ 16 → t.lut.yAt c = 0) ∧ (235 ≤ c.toNat → t.lut.yAt c = 255)
          ∧ (17 ≤ c.toNat → c.toNat ≤ 234 → t.lut.yAt c = Int.tdiv (255 * ((c.toNat : Int) - 16)) 219))
      ∧ (∀ c : Byte, 0 ≤ t.lut.yAt c ∧ t.lut.yAt c ≤ 255 ∧ t.lut.yAt c ≠ 254)
      ∧ (∀ c d : Byte, c.toNat ≤ d.toNat → t.lut.yAt c ≤ t.lut.yAt d)
      ∧ (∀ c : Byte, (c.toNat ≤ 16 → t.lut.uvAt c = -127) ∧ (240 ≤ c.toNat → t.lut.uvAt c = 127)
          ∧ (17 ≤ c.toNat → c.toNat ≤ 239 → t.lut.uvAt c = Int.tdiv (127 * ((c.toNat : Int) - 128)) 112))
      ∧ (∀ c : Byte, -127 ≤ t.lut.uvAt c ∧ t.lut.uvAt c ≤ 127)
      ∧ (∀ c d : Byte, c.toNat ≤ d.toNat → t.lut.uvAt c ≤ t.lut.uvAt d)
      ∧ t.lut.uvAt 128 = 0
      ∧ (∀ c d : Byte, 17 ≤ c.toNat → c.toNat ≤ 239 → d.toNat = 256 - c.toNat → t.lut.uvAt d = -t.lut.uvAt c)
      ∧ t = { s with lut := t.lut, status := { s.status with lutValid := true, done := true, err := 0 },
                     seq := { s.seq with phase := .idle } }

/-- The build step writes RV, GU, GV and BU (R123 to R126): the values, their ranges, and that each is odd. -/
def Obligations.BuildLutWritesCoefficientTables : Prop :=
  ∀ s : State, s.seq.phase = .lutB →
    ∃ t, exec .buildLut s = .next t
      ∧ (∀ k : Int, -127 ≤ k → k ≤ 127 →
          signedEntry t.lut.rv k = Int.tdiv (1402 * k) 1000 ∧ -178 ≤ signedEntry t.lut.rv k
            ∧ signedEntry t.lut.rv k ≤ 178 ∧ signedEntry t.lut.rv (-k) = -signedEntry t.lut.rv k
          ∧ signedEntry t.lut.gu k = Int.tdiv (344 * k) 1000 ∧ -43 ≤ signedEntry t.lut.gu k
            ∧ signedEntry t.lut.gu k ≤ 43 ∧ signedEntry t.lut.gu (-k) = -signedEntry t.lut.gu k
          ∧ signedEntry t.lut.gv k = Int.tdiv (714 * k) 1000 ∧ -90 ≤ signedEntry t.lut.gv k
            ∧ signedEntry t.lut.gv k ≤ 90 ∧ signedEntry t.lut.gv (-k) = -signedEntry t.lut.gv k
          ∧ signedEntry t.lut.bu k = Int.tdiv (1772 * k) 1000 ∧ -225 ≤ signedEntry t.lut.bu k
            ∧ signedEntry t.lut.bu k ≤ 225 ∧ signedEntry t.lut.bu (-k) = -signedEntry t.lut.bu k)
      ∧ signedEntry t.lut.rv 0 = 0
      ∧ signedEntry t.lut.gu 0 = 0 ∧ signedEntry t.lut.gu 1 = 0 ∧ signedEntry t.lut.gu 2 = 0
        ∧ signedEntry t.lut.gu 3 = 1
      ∧ signedEntry t.lut.gv 0 = 0 ∧ signedEntry t.lut.gv 1 = 0 ∧ signedEntry t.lut.gv 2 = 1
      ∧ signedEntry t.lut.bu 0 = 0 ∧ signedEntry t.lut.bu 1 = 1 ∧ signedEntry t.lut.bu 2 = 3

/-! ### REQCAP -/

/-- Acceptance of REQCAP: ERR_CONFIG before any request when FRAME_COUNT is 0; otherwise SELECT_CHANNEL is posted first
exactly when SHARED is 1, ACTIVE_INDEX takes CAP_INDEX, and QUEUE_CAPTURE of it is outstanding (R140 to R144). -/
def Obligations.ReqcapAcceptance : Prop :=
  ∀ s : State, s.seq.phase = .idle →
    (s.cfg.frameCount = 0 → exec .reqcap s = .next (refusedWith s 3))
    ∧ (s.cfg.frameCount ≠ 0 → exec .reqcap s = .next { s with
        status := { s.status with done := false, err := 0 }
        ring := { s.ring with activeIndex := s.ring.capIndex }
        chan := { s.chan with
          outstanding := some (.queueCapture s.ring.capIndex)
          log := .request (.queueCapture s.ring.capIndex) ::
            (if s.cfg.shared = true then .request (.selectChannel s.cfg.channel) :: s.chan.log else s.chan.log) }
        seq := { s.seq with phase := .rqQ } })

/-- The OK answer advances CAP_INDEX modulo FRAME_COUNT and ends REQCAP in success (R145). -/
def Obligations.ReqcapOkAdvancesCapIndex : Prop :=
  ∀ s : State, s.seq.phase = .rqQ → s.chan.answer = some .ok → s.ring.capIndex < s.cfg.frameCount →
    ∃ t, exec .reqcap s = .next t
      ∧ t.ring.capIndex.toNat = (s.ring.capIndex.toNat + 1) % s.cfg.frameCount.toNat
      ∧ t = { s with
          ring := { s.ring with capIndex := t.ring.capIndex }
          status := { s.status with done := true, err := 0 }
          chan := { s.chan with outstanding := none, answer := none }
          seq := { s.seq with phase := .idle } }

/-- The FAIL answer ends REQCAP with ERR_QUEUE and no index moved (R146); without an answer REQCAP waits (R144). -/
def Obligations.ReqcapFailLeavesIndices : Prop :=
  ∀ s : State, s.seq.phase = .rqQ →
    (s.chan.answer = some .fail → exec .reqcap s = .next { s with
        status := { s.status with done := true, err := 1 }
        chan := { s.chan with outstanding := none, answer := none }
        seq := { s.seq with phase := .idle } })
    ∧ (s.chan.answer = none → exec .reqcap s = .next s)

/-! ### AWAIT -/

/-- Acceptance of AWAIT: the checks of R148 in order; when all hold, the output is cleared, the multiplicity sampled and
WAIT_SYNC of SYNC_INDEX outstanding, and nothing else changes. -/
def Obligations.AwaitAcceptance : Prop :=
  ∀ s : State, s.seq.phase = .idle →
    (s.status.lutValid = false → exec .await s = .next (refusedWith s 5))
    ∧ (s.status.lutValid = true →
        s.cfg.frameCount = 0 ∨ s.cfg.capturesPerFrame = 0 ∨ ¬ regionOfR233 s ∨ ¬ geometryOfR171 s →
        exec .await s = .next (refusedWith s 3))
    ∧ (s.status.lutValid = true → s.cfg.frameCount ≠ 0 → s.cfg.capturesPerFrame ≠ 0 → regionOfR233 s →
        geometryOfR171 s →
        exec .await s = .next { s with
          status := { s.status with done := false, err := 0, outValid := false }
          out := .zero
          seq := { s.seq with phase := .awW, burstLeft := s.cfg.capturesPerFrame.toNat }
          chan := { s.chan with
            outstanding := some (.waitSync s.ring.syncIndex)
            log := .request (.waitSync s.ring.syncIndex) :: s.chan.log } })

/-- The OK answer to a wait: with waits left the engine re-queues ACTIVE_INDEX and touches no index (R151); after the
final one it latches SYNC_INDEX as the slot to convert and advances SYNC_INDEX (R153). -/
def Obligations.AwaitWaitAnsweredOk : Prop :=
  ∀ s : State, s.seq.phase = .awW → s.chan.answer = some .ok →
    (1 < s.seq.burstLeft → exec .await s = .next { s with
        chan := { outstanding := some (.queueCapture s.ring.activeIndex), answer := none,
                  log := .request (.queueCapture s.ring.activeIndex) :: s.chan.log }
        seq := { s.seq with phase := .awQ, burstLeft := s.seq.burstLeft - 1 } })
    ∧ (s.seq.burstLeft = 1 → s.ring.syncIndex < s.cfg.frameCount →
        ∃ t, exec .await s = .next t
          ∧ t.ring.syncIndex.toNat = (s.ring.syncIndex.toNat + 1) % s.cfg.frameCount.toNat
          ∧ t = { s with
              ring := { s.ring with syncIndex := t.ring.syncIndex }
              chan := { s.chan with outstanding := none, answer := none }
              seq := { phase := .conv, burstLeft := 0, convSlot := s.ring.syncIndex.toNat, convAdvance := true } })

/-- The OK answer to a burst re-queue: the engine waits again on the same SYNC_INDEX (R147 step C, R151). -/
def Obligations.AwaitRequeueAnsweredOk : Prop :=
  ∀ s : State, s.seq.phase = .awQ → s.chan.answer = some .ok →
    exec .await s = .next { s with
      chan := { outstanding := some (.waitSync s.ring.syncIndex), answer := none,
                log := .request (.waitSync s.ring.syncIndex) :: s.chan.log }
      seq := { s.seq with phase := .awW } }

/-- A FAIL answer ends AWAIT with ERR_WAIT after a wait (R150) and with ERR_QUEUE after a burst re-queue (R152): no index
changes, no output, SCRATCH unchanged. -/
def Obligations.AwaitFailuresLeaveEverything : Prop :=
  ∀ (s : State) (code : BitVec 4), s.chan.answer = some .fail →
    (s.seq.phase = .awW ∧ code = 2 ∨ s.seq.phase = .awQ ∧ code = 1) →
    exec .await s = .next { s with
      status := { s.status with done := true, err := code }
      chan := { s.chan with outstanding := none, answer := none }
      seq := { s.seq with phase := .idle } }

/-- Without a device answer AWAIT never leaves its wait, however many turns the engine has (R149, R270). -/
def Obligations.AwaitHangsWithoutAnswer : Prop :=
  ∀ (s : State) (n : Nat), (s.seq.phase = .awW ∨ s.seq.phase = .awQ) → s.chan.answer = none →
    ∃ t, Host.Core.run core n { s with agenda := List.replicate n .engine } = .next t ∧ t = { s with agenda := [] }

/-- The burst: with `m` waits left and every answer OK, the device sees `m - 1` more re-queues of ACTIVE_INDEX and
`m - 1` more waits on SYNC_INDEX, then the conversion starts on the slot SYNC_INDEX named, and SYNC_INDEX has advanced
exactly once (R151, R153, R157). -/
def Obligations.AwaitBurstRunsExactlyItsWaits : Prop :=
  ∀ (m : Nat) (s : State) (rest : List Event),
    1 ≤ m → s.seq.phase = .awW → s.seq.burstLeft = m → s.chan.outstanding = some (.waitSync s.ring.syncIndex) →
    s.chan.answer = none → s.ring.syncIndex < s.cfg.frameCount → s.agenda = okAnswers (2 * m - 1) ++ rest →
    ∃ t, Host.Core.run core (2 * (2 * m - 1)) s = .next t ∧ t.agenda = rest
      ∧ t.seq.phase = .conv ∧ t.seq.convSlot = s.ring.syncIndex.toNat ∧ t.seq.convAdvance = true
      ∧ t.ring.syncIndex.toNat = (s.ring.syncIndex.toNat + 1) % s.cfg.frameCount.toNat
      ∧ t.ring.capIndex = s.ring.capIndex ∧ t.ring.activeIndex = s.ring.activeIndex
      ∧ t.chan.log.count (.request (.queueCapture s.ring.activeIndex))
          = s.chan.log.count (.request (.queueCapture s.ring.activeIndex)) + (m - 1)
      ∧ t.chan.log.count (.request (.waitSync s.ring.syncIndex))
          = s.chan.log.count (.request (.waitSync s.ring.syncIndex)) + (m - 1)
      ∧ (∀ ch, t.chan.log.count (.request (.selectChannel ch)) = s.chan.log.count (.request (.selectChannel ch)))

/-! ### CONVERT and the conversion step -/

/-- Acceptance of CONVERT: the checks of R183 in order; when all hold, the output is cleared and the slot latched, with no
ring register, no device request and nothing else touched (R170 step A). -/
def Obligations.ConvertAcceptance : Prop :=
  ∀ (s : State) (slot : Nat), s.seq.phase = .idle →
    (s.status.lutValid = false → exec (.convert slot) s = .next (refusedWith s 5))
    ∧ (s.status.lutValid = true →
        s.cfg.frameCount = 0 ∨ s.cfg.frameCount.toNat ≤ slot ∨ ¬ regionOfR233 s ∨ ¬ geometryOfR171 s →
        exec (.convert slot) s = .next (refusedWith s 3))
    ∧ (s.status.lutValid = true → slot < s.cfg.frameCount.toNat → regionOfR233 s → geometryOfR171 s →
        exec (.convert slot) s = .next { s with
          status := { s.status with done := false, err := 0, outValid := false }
          out := .zero
          seq := { s.seq with phase := .conv, convSlot := slot, convAdvance := false } })

/-- The conversion step of AWAIT and of CONVERT completes: it is the step of the kernel that PIXFMT selects, for both the
same (R101, R154, R170), under what the acceptance checks leave true. -/
def Obligations.ConversionStepCompletes : Prop :=
  ∀ (s : State) (i : Instr) (slot : Nat),
    s.seq.phase = .conv → conversionLegal s → s.seq.convSlot < s.cfg.frameCount.toNat →
    decode (.tag s.cfg.pixfmt) = .ok i →
    ∃ t, exec i s = .next t ∧ conversionFrame s t
      ∧ (s.seq.convAdvance = true → exec .await s = .next t)
      ∧ (s.seq.convAdvance = false → exec (.convert slot) s = .next t)

/-- A command presented while another runs is dropped: OVR, and nothing else (R44; that `exec` reads a foreign phase so is
the model's choice, log 4). -/
def Obligations.ForeignPhaseDropsCommand : Prop :=
  ∀ (s : State) (i : Instr) (slot : Nat),
    (i = .buildLut ∧ s.seq.phase ∈ [.rqQ, .awW, .awQ, .conv]
      ∨ i = .reqcap ∧ s.seq.phase ∈ [.lutB, .awW, .awQ, .conv]
      ∨ i = .await ∧ (s.seq.phase ∈ [.lutB, .rqQ] ∨ s.seq.phase = .conv ∧ s.seq.convAdvance = false)
      ∨ i = .convert slot ∧ (s.seq.phase ∈ [.lutB, .rqQ, .awW, .awQ] ∨ s.seq.phase = .conv ∧ s.seq.convAdvance = true)) →
    exec i s = .next { s with status := { s.status with ovr := true } }

/-! ### The kernels -/

/-- Kernel YUV420P (R174; that U precedes V is the spec's own choice, G3): each pixel from its luma byte and from the
chroma sample of its 2 x 2 block, with descriptor and frame. In a race each of the three bytes is, independently, the present
or an old one (`mayRead`, R267). OUT_LEN is open where it does not fit (log 16). -/
def Obligations.Yuv420pConvertsEveryPixel : Prop :=
  ∀ s : State, s.fits .yuv420p →
    ∃ t, exec .kernelYuv420p s = .next t ∧ scratchConversion s t 0x00000103
      ∧ ∀ x r, x < s.cfg.width.toNat → r < s.cfg.height.toNat →
          ∃ y u v : Byte, mayRead s (r * s.cfg.width.toNat + x) y
            ∧ mayRead s (s.cfg.width.toNat * s.cfg.height.toNat + (r / 2) * (s.cfg.width.toNat / 2) + x / 2) u
            ∧ mayRead s (s.cfg.width.toNat * s.cfg.height.toNat
                + (s.cfg.width.toNat / 2) * (s.cfg.height.toNat / 2) + (r / 2) * (s.cfg.width.toNat / 2) + x / 2) v
            ∧ yuvPixelIs s t (r * s.cfg.width.toNat + x) (s.lut.yAt y) (s.lut.uvAt u) (s.lut.uvAt v)

/-- Kernel YUV422P (R175; G3): chroma is replicated horizontally only. Races as in YUV420P (R267); OUT_LEN is open where it
does not fit (log 16). -/
def Obligations.Yuv422pConvertsEveryPixel : Prop :=
  ∀ s : State, s.fits .yuv422p →
    ∃ t, exec .kernelYuv422p s = .next t ∧ scratchConversion s t 0x00010103
      ∧ ∀ x r, x < s.cfg.width.toNat → r < s.cfg.height.toNat →
          ∃ y u v : Byte, mayRead s (r * s.cfg.width.toNat + x) y
            ∧ mayRead s (s.cfg.width.toNat * s.cfg.height.toNat + r * (s.cfg.width.toNat / 2) + x / 2) u
            ∧ mayRead s (s.cfg.width.toNat * s.cfg.height.toNat
                + (s.cfg.width.toNat / 2) * s.cfg.height.toNat + r * (s.cfg.width.toNat / 2) + x / 2) v
            ∧ yuvPixelIs s t (r * s.cfg.width.toNat + x) (s.lut.yAt y) (s.lut.uvAt u) (s.lut.uvAt v)

/-- Kernel YUYV (R176): pixel `2 * g + b` of group `g` takes raw luma `b` of the group (Y1 at 0, Y2 at 2) and the group's
shared chroma. Races as in YUV420P (R267): the two pixels may then read a chroma byte each for itself (R69). OUT_LEN is open
where it does not fit (log 16). -/
def Obligations.YuyvConvertsEveryGroup : Prop :=
  ∀ s : State, s.fits .yuyv →
    ∃ t, exec .kernelYuyv s = .next t ∧ scratchConversion s t 0x00020103
      ∧ ∀ g b, b < 2 → 2 * g + b < s.cfg.width.toNat * s.cfg.height.toNat →
          ∃ y u v : Byte, mayRead s (4 * g + 2 * b) y ∧ mayRead s (4 * g + 1) u ∧ mayRead s (4 * g + 3) v
            ∧ yuvPixelIs s t (2 * g + b) y.toNat (s.lut.uvAt u) (s.lut.uvAt v)

/-- Kernel RGB555 (R200; the bit layout is the spec's own choice, G1), by its equations on the two bytes. Races as in YUV420P
(R267); OUT_LEN is open where it does not fit (log 16). -/
def Obligations.Rgb555UnpacksEveryPixel : Prop :=
  ∀ s : State, s.fits .rgb555 →
    ∃ t, exec .kernelRgb555 s = .next t ∧ scratchConversion s t 0x00030103
      ∧ ∀ i, i < s.cfg.width.toNat * s.cfg.height.toNat →
          ∃ low high : Byte, mayRead s (2 * i) low ∧ mayRead s (2 * i + 1) high
            ∧ pixelIs t i ((high <<< 1) &&& 0xF8) (((high <<< 6) ||| (low >>> 2)) &&& 0xF8) ((low <<< 3) &&& 0xF8)

/-- Kernel RGB565 (R201; the green and blue fields are inferred by the spec, G2), by its equations on the two bytes. Races as
in YUV420P (R267); OUT_LEN is open where it does not fit (log 16). -/
def Obligations.Rgb565UnpacksEveryPixel : Prop :=
  ∀ s : State, s.fits .rgb565 →
    ∃ t, exec .kernelRgb565 s = .next t ∧ scratchConversion s t 0x00040103
      ∧ ∀ i, i < s.cfg.width.toNat * s.cfg.height.toNat →
          ∃ low high : Byte, mayRead s (2 * i) low ∧ mayRead s (2 * i + 1) high
            ∧ pixelIs t i (high &&& 0xF8) (((high <<< 5) ||| (low >>> 3)) &&& 0xFC) ((low <<< 3) &&& 0xF8)

/-- Kernel RGB24 with BGR_INVERT = 1 exchanges the first and third byte of each pixel into SCRATCH (R204), races as in
YUV420P (R267); with BGR_INVERT = 0 it is a view that touches no memory (R202, R203). -/
def Obligations.Rgb24SwapsOrViews : Prop :=
  ∀ s : State,
    (s.cfg.bgrInvert = true → s.fits .rgb24 →
      ∃ t, exec .kernelRgb24 s = .next t ∧ scratchConversion s t 0x00050103
        ∧ ∀ i, i < s.cfg.width.toNat * s.cfg.height.toNat →
            ∃ a b c : Byte, mayRead s (3 * i) a ∧ mayRead s (3 * i + 1) b ∧ mayRead s (3 * i + 2) c ∧ pixelIs t i c b a)
    ∧ (s.cfg.bgrInvert = false →
        ∃ t, exec .kernelRgb24 s = .next t ∧ conversionFrame s t ∧ t.host = s.host ∧ t.scratch = s.scratch
          ∧ t.out.dim = s.cfg.height ++ s.cfg.width ∧ t.out.info = 0x00050003
          ∧ (s.slice < 2 ^ 32 → t.out.addr.toNat = s.slice)
          ∧ (3 * (s.cfg.width.toNat * s.cfg.height.toNat) < 2 ^ 32 →
              t.out.len.toNat = 3 * (s.cfg.width.toNat * s.cfg.height.toNat)))

/-- Kernels GREY and OTHER are views: no memory is read or written, GREY describes P bytes with one channel (R205), OTHER
the whole slot with none (R206). -/
def Obligations.GreyAndOtherAreViews : Prop :=
  ∀ s : State,
    (∃ t, exec .kernelGrey s = .next t ∧ conversionFrame s t ∧ t.host = s.host ∧ t.scratch = s.scratch
      ∧ t.out.dim = s.cfg.height ++ s.cfg.width ∧ t.out.info = 0x00060001
      ∧ (s.slice < 2 ^ 32 → t.out.addr.toNat = s.slice)
      ∧ t.out.len.toNat = s.cfg.width.toNat * s.cfg.height.toNat)
    ∧ (∃ t, exec .kernelOther s = .next t ∧ conversionFrame s t ∧ t.host = s.host ∧ t.scratch = s.scratch
      ∧ t.out.dim = s.cfg.height ++ s.cfg.width ∧ t.out.info = 0x00070000
      ∧ (s.slice < 2 ^ 32 → t.out.addr.toNat = s.slice)
      ∧ (s.cfg.frameCount ≠ 0 → t.out.len.toNat = s.cfg.regionSize.toNat / s.cfg.frameCount.toNat))

/-- A converting kernel whose image does not fit SCRATCH, or whose input would lie beyond DEVBUF, faults: those addresses
do not exist (R60, R61; log 17). -/
def Obligations.KernelsFaultOutsideTheSpaces : Prop :=
  ∀ (s : State) (f : PixelFormat), usesScratch f s.cfg.bgrInvert = true →
    (Config.maxPixels < s.pixelCount → exec f.kernel s = .fault .scratchOutOfRange)
    ∧ (s.pixelCount ≤ Config.maxPixels → 0 < needIn f s.pixelCount → 2 ^ 32 < s.slice + needIn f s.pixelCount →
        exec f.kernel s = .fault .devbufOutOfRange)

/-- `yuv2rgb` with the built tables: each channel is the exact sum clamped once to 0..255, never a wrapped value
(R177, R178). -/
def Obligations.YuvToRgbClampsExactSums : Prop :=
  ∀ y u v : Int, 0 ≤ y → y ≤ 255 → -127 ≤ u → u ≤ 127 → -127 ≤ v → v ≤ 127 →
    ((yuv2rgb builtTables y u v).r.toNat : Int) = max 0 (min 255 (y + Int.tdiv (1402 * v) 1000))
    ∧ ((yuv2rgb builtTables y u v).g.toNat : Int)
        = max 0 (min 255 (y - (Int.tdiv (344 * u) 1000 + Int.tdiv (714 * v) 1000)))
    ∧ ((yuv2rgb builtTables y u v).b.toNat : Int) = max 0 (min 255 (y + Int.tdiv (1772 * u) 1000))

/-- The grey property (R179), with the built tables, pixel by pixel: where the two chroma bytes of a pixel are 128, the planar
kernels give R = G = B = Y[luma], so luma 128 gives 130, and YUYV gives R = G = B = luma, raw. A frame whose chroma planes are
128 everywhere meets this at every pixel; nothing is asked of any other byte. -/
def Obligations.NeutralChromaGivesGrey : Prop :=
  ∀ (s t : State), s.lut = builtTables →
    (∀ (i : Instr) (x r uAt vAt : Nat), x < s.cfg.width.toNat → r < s.cfg.height.toNat →
      (i = .kernelYuv420p
          ∧ uAt = s.cfg.width.toNat * s.cfg.height.toNat + (r / 2) * (s.cfg.width.toNat / 2) + x / 2
          ∧ vAt = s.cfg.width.toNat * s.cfg.height.toNat + (s.cfg.width.toNat / 2) * (s.cfg.height.toNat / 2)
              + (r / 2) * (s.cfg.width.toNat / 2) + x / 2
        ∨ i = .kernelYuv422p
          ∧ uAt = s.cfg.width.toNat * s.cfg.height.toNat + r * (s.cfg.width.toNat / 2) + x / 2
          ∧ vAt = s.cfg.width.toNat * s.cfg.height.toNat + (s.cfg.width.toNat / 2) * s.cfg.height.toNat
              + r * (s.cfg.width.toNat / 2) + x / 2) →
      (∀ c, mayRead s uAt c → c = 128) → (∀ c, mayRead s vAt c → c = 128) → exec i s = .next t →
        ∃ y b : Byte, mayRead s (r * s.cfg.width.toNat + x) y ∧ pixelIs t (r * s.cfg.width.toNat + x) b b b
          ∧ (b.toNat : Int) = s.lut.yAt y ∧ (y = 128 → b = 130))
    ∧ (∀ g b : Nat, (∀ c, mayRead s (4 * g + 1) c → c = 128) → (∀ c, mayRead s (4 * g + 3) c → c = 128) →
        exec .kernelYuyv s = .next t → b < 2 → 2 * g + b < s.cfg.width.toNat * s.cfg.height.toNat →
          ∃ y : Byte, mayRead s (4 * g + 2 * b) y ∧ pixelIs t (2 * g + b) y y y)

/-- A conversion is a pure function: two runs of the same kernel that agree on the configuration, the tables, the slot and
the `need_in` input bytes, none of which races, give the same descriptor and the same image, whatever else differs (R170,
R267). -/
def Obligations.ConversionDependsOnInputOnly : Prop :=
  ∀ (f : PixelFormat) (s₁ s₂ t₁ t₂ : State),
    s₁.cfg = s₂.cfg → s₁.lut = s₂.lut → s₁.seq.convSlot = s₂.seq.convSlot →
    dimensionsLegal f s₁.cfg.width.toNat s₁.cfg.height.toNat = true →
    (∀ k, k < needIn f s₁.pixelCount → s₁.inByte k = s₂.inByte k ∧ settledAt s₁ k ∧ settledAt s₂ k) →
    exec f.kernel s₁ = .next t₁ → exec f.kernel s₂ = .next t₂ →
      t₁.out = t₂.out
      ∧ (usesScratch f s₁.cfg.bgrInvert = true →
          ∀ a, a < 3 * s₁.pixelCount → ∃ b, Memory.read t₁.scratch a = some b ∧ Memory.read t₂.scratch a = some b)

/-! ### Invariants and whole-machine rules -/

/-- The invariant holds after reset (R49, R260). -/
def Obligations.ResetMeetsInvariant : Prop := Inv State.reset

/-- Every step keeps the invariant: the ring invariant, the flags, the tables, the channel, the sequencer and the
canonical form of both memories. -/
def Obligations.StepKeepsInvariant : Prop :=
  ∀ s t : State, Inv s → step s = .next t → Inv t

/-- From a state that meets the invariant no engine step faults: the only fault left is a host read of a SCRATCH byte that
does not exist (R170 "the conversion step itself cannot fail", R243). -/
def Obligations.InvariantExcludesEngineFaults : Prop :=
  ∀ (s : State) (r : Fault), Inv s → step s = .fault r →
    r = .scratchOutOfRange ∧ ∃ a rest, s.agenda = .hostReadScratch a :: rest ∧ Config.scratchCap ≤ a

/-- The ring invariant (R24): it holds after reset, and every step keeps it on its own, from any state that has it. -/
def Obligations.StepKeepsRingInRange : Prop :=
  ringInRange State.reset ∧ ∀ s t : State, ringInRange s → step s = .next t → ringInRange t

/-- The engine never writes DEVBUF: a step that is not a device write leaves every byte of it, and gives no byte an old
value it had not (R60, R75). -/
def Obligations.OnlyTheDeviceWritesDevbuf : Prop :=
  ∀ s t : State, step s = .next t → (∀ a b rest, s.agenda ≠ .deviceWrite a b :: rest) →
    (∀ a, Memory.read t.devbuf a = Memory.read s.devbuf a) ∧ ∀ c ∈ t.stale, c ∈ s.stale

/-- The configuration changes only by reset or by a 32-bit host write to one of its nine registers while BUSY is 0: never by
the engine or the device (section 4 of 10_state.md, R44). -/
def Obligations.OnlyIdleHostWritesChangeConfiguration : Prop :=
  ∀ s t : State, step s = .next t → t.cfg ≠ s.cfg →
    (∃ d rest, s.agenda = .reset d :: rest)
    ∨ s.seq.phase = .idle ∧ ∃ offset v rest, s.agenda = .hostWrite 32 offset v :: rest
        ∧ offset ∈ [0x08, 0x0C, 0x10, 0x14, 0x18, 0x1C, 0x20, 0x24, 0x28]

/-- Once built, the tables never change and LUT_VALID stays set until reset (R26, R46, R261); from every state that meets
the invariant. -/
def Obligations.BuiltTablesLastUntilReset : Prop :=
  ∀ s t : State, Inv s → step s = .next t → s.status.lutValid = true → (∀ d rest, s.agenda ≠ .reset d :: rest) →
    t.status.lutValid = true ∧ t.lut = s.lut

/-- OVR is sticky: only a host write to STATUS with bit 4 set, or reset, clears it (R26). -/
def Obligations.OvrClearedOnlyByHostOrReset : Prop :=
  ∀ s t : State, step s = .next t → s.status.ovr = true → t.status.ovr = false →
    (∃ d rest, s.agenda = .reset d :: rest)
    ∨ ∃ v rest, s.agenda = .hostWrite 32 0x04 v :: rest ∧ v.getLsbD 4 = true

/-- CAP_INDEX changes only by a successful REQCAP, a write to FRAME_COUNT, or reset (R21). -/
def Obligations.CapIndexWriters : Prop :=
  ∀ s t : State, step s = .next t → t.ring.capIndex ≠ s.ring.capIndex →
    (∃ d rest, s.agenda = .reset d :: rest)
    ∨ (∃ v rest, s.agenda = .hostWrite 32 0x18 v :: rest ∧ s.seq.phase = .idle)
    ∨ (s.seq.phase = .rqQ ∧ s.chan.answer = some .ok ∧ t.seq.phase = .idle ∧ t.status.err = 0)

/-- SYNC_INDEX changes only when the final wait of an AWAIT succeeds, by a write to FRAME_COUNT, or by reset (R22). -/
def Obligations.SyncIndexWriters : Prop :=
  ∀ s t : State, step s = .next t → t.ring.syncIndex ≠ s.ring.syncIndex →
    (∃ d rest, s.agenda = .reset d :: rest)
    ∨ (∃ v rest, s.agenda = .hostWrite 32 0x18 v :: rest ∧ s.seq.phase = .idle)
    ∨ (s.seq.phase = .awW ∧ s.chan.answer = some .ok ∧ s.seq.burstLeft ≤ 1 ∧ t.seq.phase = .conv)

/-- Slot `i` lies at `REGION_BASE + i * frame_size`; slots do not overlap, follow each other in index order, and lie inside
the region (R64). -/
def Obligations.SlotsTileTheRegion : Prop :=
  ∀ (s : State) (i : Nat), s.cfg.frameCount ≠ 0 → i < s.cfg.frameCount.toNat →
    s.slotAddr i = s.cfg.regionBase.toNat + i * (s.cfg.regionSize.toNat / s.cfg.frameCount.toNat)
    ∧ s.frameSize = s.cfg.regionSize.toNat / s.cfg.frameCount.toNat
    ∧ s.slotAddr (i + 1) = s.slotAddr i + s.frameSize
    ∧ i * s.frameSize + s.frameSize ≤ s.cfg.regionSize.toNat
    ∧ s.slotAddr i + s.frameSize ≤ s.cfg.regionBase.toNat + s.cfg.regionSize.toNat
    ∧ ∀ j, i < j → s.slotAddr i + s.frameSize ≤ s.slotAddr j

/-- A device that keeps to its assumption (R73) leaves alone every byte of a slot whose capture it does not hold, so an
unqueued slot, and a view of it, keeps its contents (R73, R268). The input race stays inside the queued slots: it starts so,
and every step keeps it so while the device keeps to R73, the host writes the ring registers only when nothing is queued (R264)
and no reset comes over a queued capture. So CONVERT of a slot that is not queued reads every byte exactly (R267). How the
queue is read off the trace is the model's (log 22), how the race is held too (log 25). -/
def Obligations.UnqueuedSlotKeepsItsBytes : Prop :=
  (∀ (s t : State) (slot : SlotIndex) (addr : Word) (b : Byte) (rest : List Event) (k : Nat),
    s.agenda = .deviceWrite addr b :: rest → deviceMayWrite s addr → slot ∉ queuedSlots s.chan.log →
    k < s.frameSize → step s = .next t →
      Memory.read t.devbuf (s.slotAddr slot.toNat + k) = Memory.read s.devbuf (s.slotAddr slot.toNat + k))
  ∧ raceOnlyWhereQueued State.reset
  ∧ (∀ s t : State, raceOnlyWhereQueued s → step s = .next t →
      (∀ addr b rest, s.agenda = .deviceWrite addr b :: rest → deviceMayWrite s addr) →
      (∀ offset v rest, s.agenda = .hostWrite 32 offset v :: rest → offset ∈ [0x18, 0x1C, 0x20] → hostMaySetRing s) →
      (∀ down rest, s.agenda = .reset down :: rest → queuedSlots s.chan.log = []) →
      raceOnlyWhereQueued t)
  ∧ (∀ (s : State) (k : Nat), raceOnlyWhereQueued s → hostMayConvert s s.seq.convSlot →
      s.seq.convSlot < s.cfg.frameCount.toNat → k < s.frameSize → settledAt s k)

/-- `N` CAPTURE cycles with CPF = 1 whose answers are all OK advance both indices by `N` modulo FRAME_COUNT and leave the
engine idle (R155). -/
def Obligations.CaptureCyclesAdvanceBothIndices : Prop :=
  ∀ (n : Nat) (s : State) (rest : List Event),
    s.seq.phase = .idle → s.chan.outstanding = none → s.chan.answer = none →
    s.status.lutValid = true → s.cfg.capturesPerFrame = 1 → s.cfg.frameCount ≠ 0 → regionOfR233 s →
    geometryOfR171 s → ringInRange s → s.agenda = (List.replicate n captureCycle).flatten ++ rest →
    ∃ t, Host.Core.run core (7 * n) s = .next t ∧ t.agenda = rest ∧ t.seq.phase = .idle
      ∧ t.ring.capIndex.toNat = (s.ring.capIndex.toNat + n) % s.cfg.frameCount.toNat
      ∧ t.ring.syncIndex.toNat = (s.ring.syncIndex.toNat + n) % s.cfg.frameCount.toNat
      ∧ t.cfg = s.cfg ∧ t.devbuf = s.devbuf

/-! ### The device channel and reset -/

/-- The device's answer reaches the outstanding request once; an answer that no request waits for has no meaning
(R70; log 19). The OK answer to a WAIT_SYNC makes the device's writes into that slot visible: no old byte of the slot can be
read any more, and nothing else is settled by an answer (R75; log 25). -/
def Obligations.AnswersMatchRequests : Prop :=
  ∀ (s : State) (a : DevAnswer) (rest : List Event), s.agenda = .deviceAnswer a :: rest →
    (∀ r, s.chan.outstanding = some r → s.chan.answer = none →
      (∃ t, step s = .next t ∧ t = { s with
          agenda := rest
          stale := t.stale
          chan := { s.chan with answer := some a, log := .answered r a :: s.chan.log } }
        ∧ ∀ c, c ∈ t.stale ↔ c ∈ s.stale ∧ ¬ (a = .ok ∧ ∃ slot : SlotIndex, r = .waitSync slot
            ∧ s.slotAddr slot.toNat ≤ c.1 ∧ c.1 < s.slotAddr slot.toNat + s.frameSize)))
    ∧ (s.chan.outstanding = none ∨ s.chan.answer ≠ none → step s = .refused .unsolicitedAnswer)

/-- Reset puts every piece of engine state at its reset value, leaves DEVBUF unchanged and the channel empty (R49, R260);
with a request outstanding, an answer in flight or a capture queued it needs the device torn down too, or the run has no
meaning (R262). The values of burst_left, conv_slot, conv_advance and the tables are the model's (log 7, log 8) and are
not claimed. -/
def Obligations.ResetLeavesResetValues : Prop :=
  ∀ (s : State) (down : Bool) (rest : List Event), s.agenda = .reset down :: rest →
    (down = true ∨ s.chan.outstanding = none ∧ s.chan.answer = none ∧ queuedSlots s.chan.log = [] →
      ∃ t, step s = .next t
        ∧ t.ring = { capIndex := 0, syncIndex := 0, activeIndex := 0 }
        ∧ t.status = { done := false, lutValid := false, outValid := false, ovr := false, err := 0 }
        ∧ t.cfg = { shared := false, bgrInvert := false, strict := false, pixfmt := 0, width := 0, height := 0,
                    frameCount := 0, regionBase := 0, regionSize := 0, capturesPerFrame := 1, channel := 0 }
        ∧ t.out = { dim := 0, info := 0, addr := 0, len := 0 } ∧ t.seq.phase = .idle
        ∧ t.chan.outstanding = none ∧ t.chan.answer = none ∧ t.devbuf = s.devbuf ∧ t.stale = s.stale
        ∧ t.agenda = rest)
    ∧ (down = false → s.chan.outstanding ≠ none ∨ s.chan.answer ≠ none ∨ queuedSlots s.chan.log ≠ [] →
        step s = .refused .resetWithoutTeardown)
end

