-- ==== Sys2Proof/Laws/Raster.lean ====
section
/-! SUPPORT. Where the three bytes of a pixel stand in the raster, and in SCRATCH after the raster is written. -/

namespace Sys2Proof.Machine

theorem raster_succ (n : Nat) (px : Nat → Rgb) :
    raster (n + 1) px = raster n px ++ [(px n).r, (px n).g, (px n).b] := by
  simp [raster, List.range_succ]

/-- The raster of `n` pixels is `3 * n` bytes. -/
@[simp] theorem raster_length (n : Nat) (px : Nat → Rgb) : (raster n px).length = 3 * n := by
  induction n with
  | zero => rfl
  | succ n ih => rw [raster_succ, List.length_append, ih]; rfl

/-- Byte `c` (0 red, 1 green, 2 blue) of a pixel. -/
def Rgb.channel (q : Rgb) (c : Nat) : Byte := if c = 0 then q.r else if c = 1 then q.g else q.b

/-- Byte `3 * p + c` of the raster is channel `c` of pixel `p`. -/
theorem raster_getElem (n : Nat) (px : Nat → Rgb) {p c : Nat} (hp : p < n) (hc : c < 3)
    (h : 3 * p + c < (raster n px).length) : (raster n px)[3 * p + c] = (px p).channel c := by
  induction n with
  | zero => omega
  | succ n ih =>
    simp only [raster_succ]
    by_cases hpn : p < n
    · rw [List.getElem_append_left (by simp; omega)]
      exact ih hpn _
    · obtain rfl : p = n := by omega
      rw [List.getElem_append_right (by simp)]
      simp only [raster_length]
      interval_cases c <;> simp [Rgb.channel]

/-- After the raster is written at SCRATCH 0, byte `3 * p + c` is channel `c` of pixel `p`. -/
theorem read_raster (m : Memory) (n : Nat) (px : Nat → Rgb) {p c : Nat} (hp : p < n) (hc : c < 3) :
    Memory.read (Memory.writeBytes m 0 (raster n px)) (3 * p + c) = some ((px p).channel c) := by
  have h : 3 * p + c < (raster n px).length := by simp; omega
  have := Memory.read_writeBytes_in m 0 (raster n px) h
  rw [Nat.zero_add] at this
  rw [this, raster_getElem n px hp hc]

/-- From `3 * n` on the raster leaves SCRATCH alone. -/
theorem read_raster_above (m : Memory) (n : Nat) (px : Nat → Rgb) {a : Nat} (h : 3 * n ≤ a) :
    Memory.read (Memory.writeBytes m 0 (raster n px)) a = Memory.read m a :=
  Memory.read_writeBytes_other m _ (.inr (by simpa using h))

end Sys2Proof.Machine
end

