-- ==== Sys2Proof/Laws/State.lean ====
section
/-! SUPPORT. One lemma per field of State for each named update of it, true by `rfl` (a racing read by cases), so that no
proof unfolds a record update. -/

namespace Sys2Proof.Machine

variable (s : State)

/-! `State.toPhase` -/

@[simp] theorem State.toPhase_ring (p : Phase) : (s.toPhase p).ring = s.ring := rfl
@[simp] theorem State.toPhase_status (p : Phase) : (s.toPhase p).status = s.status := rfl
@[simp] theorem State.toPhase_cfg (p : Phase) : (s.toPhase p).cfg = s.cfg := rfl
@[simp] theorem State.toPhase_out (p : Phase) : (s.toPhase p).out = s.out := rfl
@[simp] theorem State.toPhase_lut (p : Phase) : (s.toPhase p).lut = s.lut := rfl
@[simp] theorem State.toPhase_seq (p : Phase) : (s.toPhase p).seq = { s.seq with phase := p } := rfl
@[simp] theorem State.toPhase_scratch (p : Phase) : (s.toPhase p).scratch = s.scratch := rfl
@[simp] theorem State.toPhase_devbuf (p : Phase) : (s.toPhase p).devbuf = s.devbuf := rfl
@[simp] theorem State.toPhase_stale (p : Phase) : (s.toPhase p).stale = s.stale := rfl
@[simp] theorem State.toPhase_chan (p : Phase) : (s.toPhase p).chan = s.chan := rfl
@[simp] theorem State.toPhase_agenda (p : Phase) : (s.toPhase p).agenda = s.agenda := rfl
@[simp] theorem State.toPhase_host (p : Phase) : (s.toPhase p).host = s.host := rfl

/-! `State.acceptWord` -/

@[simp] theorem State.acceptWord_ring : s.acceptWord.ring = s.ring := rfl
@[simp] theorem State.acceptWord_status : s.acceptWord.status = { s.status with done := false, err := 0 } := rfl
@[simp] theorem State.acceptWord_cfg : s.acceptWord.cfg = s.cfg := rfl
@[simp] theorem State.acceptWord_out : s.acceptWord.out = s.out := rfl
@[simp] theorem State.acceptWord_lut : s.acceptWord.lut = s.lut := rfl
@[simp] theorem State.acceptWord_seq : s.acceptWord.seq = s.seq := rfl
@[simp] theorem State.acceptWord_scratch : s.acceptWord.scratch = s.scratch := rfl
@[simp] theorem State.acceptWord_devbuf : s.acceptWord.devbuf = s.devbuf := rfl
@[simp] theorem State.acceptWord_stale : s.acceptWord.stale = s.stale := rfl
@[simp] theorem State.acceptWord_chan : s.acceptWord.chan = s.chan := rfl
@[simp] theorem State.acceptWord_agenda : s.acceptWord.agenda = s.agenda := rfl
@[simp] theorem State.acceptWord_host : s.acceptWord.host = s.host := rfl

/-! `State.raise` -/

@[simp] theorem State.raise_ring (e : ErrorCode) : (s.raise e).ring = s.ring := rfl
@[simp] theorem State.raise_status (e : ErrorCode) : (s.raise e).status = { s.status with done := true, err := e.code } :=
  rfl
@[simp] theorem State.raise_cfg (e : ErrorCode) : (s.raise e).cfg = s.cfg := rfl
@[simp] theorem State.raise_out (e : ErrorCode) : (s.raise e).out = s.out := rfl
@[simp] theorem State.raise_lut (e : ErrorCode) : (s.raise e).lut = s.lut := rfl
@[simp] theorem State.raise_seq (e : ErrorCode) : (s.raise e).seq = { s.seq with phase := .idle } := rfl
@[simp] theorem State.raise_scratch (e : ErrorCode) : (s.raise e).scratch = s.scratch := rfl
@[simp] theorem State.raise_devbuf (e : ErrorCode) : (s.raise e).devbuf = s.devbuf := rfl
@[simp] theorem State.raise_stale (e : ErrorCode) : (s.raise e).stale = s.stale := rfl
@[simp] theorem State.raise_chan (e : ErrorCode) : (s.raise e).chan = s.chan := rfl
@[simp] theorem State.raise_agenda (e : ErrorCode) : (s.raise e).agenda = s.agenda := rfl
@[simp] theorem State.raise_host (e : ErrorCode) : (s.raise e).host = s.host := rfl

/-! `State.finish` -/

@[simp] theorem State.finish_ring : s.finish.ring = s.ring := rfl
@[simp] theorem State.finish_status : s.finish.status = { s.status with done := true, err := 0 } := rfl
@[simp] theorem State.finish_cfg : s.finish.cfg = s.cfg := rfl
@[simp] theorem State.finish_out : s.finish.out = s.out := rfl
@[simp] theorem State.finish_lut : s.finish.lut = s.lut := rfl
@[simp] theorem State.finish_seq : s.finish.seq = { s.seq with phase := .idle } := rfl
@[simp] theorem State.finish_scratch : s.finish.scratch = s.scratch := rfl
@[simp] theorem State.finish_devbuf : s.finish.devbuf = s.devbuf := rfl
@[simp] theorem State.finish_stale : s.finish.stale = s.stale := rfl
@[simp] theorem State.finish_chan : s.finish.chan = s.chan := rfl
@[simp] theorem State.finish_agenda : s.finish.agenda = s.agenda := rfl
@[simp] theorem State.finish_host : s.finish.host = s.host := rfl

/-! `State.dropWrite` -/

@[simp] theorem State.dropWrite_ring : s.dropWrite.ring = s.ring := rfl
@[simp] theorem State.dropWrite_status : s.dropWrite.status = { s.status with ovr := true } := rfl
@[simp] theorem State.dropWrite_cfg : s.dropWrite.cfg = s.cfg := rfl
@[simp] theorem State.dropWrite_out : s.dropWrite.out = s.out := rfl
@[simp] theorem State.dropWrite_lut : s.dropWrite.lut = s.lut := rfl
@[simp] theorem State.dropWrite_seq : s.dropWrite.seq = s.seq := rfl
@[simp] theorem State.dropWrite_scratch : s.dropWrite.scratch = s.scratch := rfl
@[simp] theorem State.dropWrite_devbuf : s.dropWrite.devbuf = s.devbuf := rfl
@[simp] theorem State.dropWrite_stale : s.dropWrite.stale = s.stale := rfl
@[simp] theorem State.dropWrite_chan : s.dropWrite.chan = s.chan := rfl
@[simp] theorem State.dropWrite_agenda : s.dropWrite.agenda = s.agenda := rfl
@[simp] theorem State.dropWrite_host : s.dropWrite.host = s.host := rfl

/-! `State.clearOvr` -/

@[simp] theorem State.clearOvr_ring : s.clearOvr.ring = s.ring := rfl
@[simp] theorem State.clearOvr_status : s.clearOvr.status = { s.status with ovr := false } := rfl
@[simp] theorem State.clearOvr_cfg : s.clearOvr.cfg = s.cfg := rfl
@[simp] theorem State.clearOvr_out : s.clearOvr.out = s.out := rfl
@[simp] theorem State.clearOvr_lut : s.clearOvr.lut = s.lut := rfl
@[simp] theorem State.clearOvr_seq : s.clearOvr.seq = s.seq := rfl
@[simp] theorem State.clearOvr_scratch : s.clearOvr.scratch = s.scratch := rfl
@[simp] theorem State.clearOvr_devbuf : s.clearOvr.devbuf = s.devbuf := rfl
@[simp] theorem State.clearOvr_stale : s.clearOvr.stale = s.stale := rfl
@[simp] theorem State.clearOvr_chan : s.clearOvr.chan = s.chan := rfl
@[simp] theorem State.clearOvr_agenda : s.clearOvr.agenda = s.agenda := rfl
@[simp] theorem State.clearOvr_host : s.clearOvr.host = s.host := rfl

/-! `State.clearOutput` -/

@[simp] theorem State.clearOutput_ring : s.clearOutput.ring = s.ring := rfl
@[simp] theorem State.clearOutput_status : s.clearOutput.status = { s.status with outValid := false } := rfl
@[simp] theorem State.clearOutput_cfg : s.clearOutput.cfg = s.cfg := rfl
@[simp] theorem State.clearOutput_out : s.clearOutput.out = .zero := rfl
@[simp] theorem State.clearOutput_lut : s.clearOutput.lut = s.lut := rfl
@[simp] theorem State.clearOutput_seq : s.clearOutput.seq = s.seq := rfl
@[simp] theorem State.clearOutput_scratch : s.clearOutput.scratch = s.scratch := rfl
@[simp] theorem State.clearOutput_devbuf : s.clearOutput.devbuf = s.devbuf := rfl
@[simp] theorem State.clearOutput_stale : s.clearOutput.stale = s.stale := rfl
@[simp] theorem State.clearOutput_chan : s.clearOutput.chan = s.chan := rfl
@[simp] theorem State.clearOutput_agenda : s.clearOutput.agenda = s.agenda := rfl
@[simp] theorem State.clearOutput_host : s.clearOutput.host = s.host := rfl

/-! `State.activate` -/

@[simp] theorem State.activate_ring : s.activate.ring = { s.ring with activeIndex := s.ring.capIndex } := rfl
@[simp] theorem State.activate_status : s.activate.status = s.status := rfl
@[simp] theorem State.activate_cfg : s.activate.cfg = s.cfg := rfl
@[simp] theorem State.activate_out : s.activate.out = s.out := rfl
@[simp] theorem State.activate_lut : s.activate.lut = s.lut := rfl
@[simp] theorem State.activate_seq : s.activate.seq = s.seq := rfl
@[simp] theorem State.activate_scratch : s.activate.scratch = s.scratch := rfl
@[simp] theorem State.activate_devbuf : s.activate.devbuf = s.devbuf := rfl
@[simp] theorem State.activate_stale : s.activate.stale = s.stale := rfl
@[simp] theorem State.activate_chan : s.activate.chan = s.chan := rfl
@[simp] theorem State.activate_agenda : s.activate.agenda = s.agenda := rfl
@[simp] theorem State.activate_host : s.activate.host = s.host := rfl

/-! `State.advanceCap` -/

@[simp] theorem State.advanceCap_ring : s.advanceCap.ring = { s.ring with capIndex := advanceIndex s.ring.capIndex s.cfg.frameCount } :=
  rfl
@[simp] theorem State.advanceCap_status : s.advanceCap.status = s.status := rfl
@[simp] theorem State.advanceCap_cfg : s.advanceCap.cfg = s.cfg := rfl
@[simp] theorem State.advanceCap_out : s.advanceCap.out = s.out := rfl
@[simp] theorem State.advanceCap_lut : s.advanceCap.lut = s.lut := rfl
@[simp] theorem State.advanceCap_seq : s.advanceCap.seq = s.seq := rfl
@[simp] theorem State.advanceCap_scratch : s.advanceCap.scratch = s.scratch := rfl
@[simp] theorem State.advanceCap_devbuf : s.advanceCap.devbuf = s.devbuf := rfl
@[simp] theorem State.advanceCap_stale : s.advanceCap.stale = s.stale := rfl
@[simp] theorem State.advanceCap_chan : s.advanceCap.chan = s.chan := rfl
@[simp] theorem State.advanceCap_agenda : s.advanceCap.agenda = s.agenda := rfl
@[simp] theorem State.advanceCap_host : s.advanceCap.host = s.host := rfl

/-! `State.advanceSync` -/

@[simp] theorem State.advanceSync_ring : s.advanceSync.ring = { s.ring with syncIndex := advanceIndex s.ring.syncIndex s.cfg.frameCount } :=
  rfl
@[simp] theorem State.advanceSync_status : s.advanceSync.status = s.status := rfl
@[simp] theorem State.advanceSync_cfg : s.advanceSync.cfg = s.cfg := rfl
@[simp] theorem State.advanceSync_out : s.advanceSync.out = s.out := rfl
@[simp] theorem State.advanceSync_lut : s.advanceSync.lut = s.lut := rfl
@[simp] theorem State.advanceSync_seq : s.advanceSync.seq = s.seq := rfl
@[simp] theorem State.advanceSync_scratch : s.advanceSync.scratch = s.scratch := rfl
@[simp] theorem State.advanceSync_devbuf : s.advanceSync.devbuf = s.devbuf := rfl
@[simp] theorem State.advanceSync_stale : s.advanceSync.stale = s.stale := rfl
@[simp] theorem State.advanceSync_chan : s.advanceSync.chan = s.chan := rfl
@[simp] theorem State.advanceSync_agenda : s.advanceSync.agenda = s.agenda := rfl
@[simp] theorem State.advanceSync_host : s.advanceSync.host = s.host := rfl

/-! `State.postRequest` -/

@[simp] theorem State.postRequest_ring (r : DevRequest) : (s.postRequest r).ring = s.ring := rfl
@[simp] theorem State.postRequest_status (r : DevRequest) : (s.postRequest r).status = s.status := rfl
@[simp] theorem State.postRequest_cfg (r : DevRequest) : (s.postRequest r).cfg = s.cfg := rfl
@[simp] theorem State.postRequest_out (r : DevRequest) : (s.postRequest r).out = s.out := rfl
@[simp] theorem State.postRequest_lut (r : DevRequest) : (s.postRequest r).lut = s.lut := rfl
@[simp] theorem State.postRequest_seq (r : DevRequest) : (s.postRequest r).seq = s.seq := rfl
@[simp] theorem State.postRequest_scratch (r : DevRequest) : (s.postRequest r).scratch = s.scratch := rfl
@[simp] theorem State.postRequest_devbuf (r : DevRequest) : (s.postRequest r).devbuf = s.devbuf := rfl
@[simp] theorem State.postRequest_stale (r : DevRequest) : (s.postRequest r).stale = s.stale := rfl
@[simp] theorem State.postRequest_chan (r : DevRequest) : (s.postRequest r).chan = { s.chan with log := .request r :: s.chan.log } :=
  rfl
@[simp] theorem State.postRequest_agenda (r : DevRequest) : (s.postRequest r).agenda = s.agenda := rfl
@[simp] theorem State.postRequest_host (r : DevRequest) : (s.postRequest r).host = s.host := rfl

/-! `State.sendRequest` -/

@[simp] theorem State.sendRequest_ring (r : DevRequest) : (s.sendRequest r).ring = s.ring := rfl
@[simp] theorem State.sendRequest_status (r : DevRequest) : (s.sendRequest r).status = s.status := rfl
@[simp] theorem State.sendRequest_cfg (r : DevRequest) : (s.sendRequest r).cfg = s.cfg := rfl
@[simp] theorem State.sendRequest_out (r : DevRequest) : (s.sendRequest r).out = s.out := rfl
@[simp] theorem State.sendRequest_lut (r : DevRequest) : (s.sendRequest r).lut = s.lut := rfl
@[simp] theorem State.sendRequest_seq (r : DevRequest) : (s.sendRequest r).seq = s.seq := rfl
@[simp] theorem State.sendRequest_scratch (r : DevRequest) : (s.sendRequest r).scratch = s.scratch := rfl
@[simp] theorem State.sendRequest_devbuf (r : DevRequest) : (s.sendRequest r).devbuf = s.devbuf := rfl
@[simp] theorem State.sendRequest_stale (r : DevRequest) : (s.sendRequest r).stale = s.stale := rfl
@[simp] theorem State.sendRequest_chan (r : DevRequest) : (s.sendRequest r).chan = { s.chan with outstanding := some r, log := .request r :: s.chan.log } :=
  rfl
@[simp] theorem State.sendRequest_agenda (r : DevRequest) : (s.sendRequest r).agenda = s.agenda := rfl
@[simp] theorem State.sendRequest_host (r : DevRequest) : (s.sendRequest r).host = s.host := rfl

/-! `State.takeAnswer` -/

@[simp] theorem State.takeAnswer_ring : s.takeAnswer.ring = s.ring := rfl
@[simp] theorem State.takeAnswer_status : s.takeAnswer.status = s.status := rfl
@[simp] theorem State.takeAnswer_cfg : s.takeAnswer.cfg = s.cfg := rfl
@[simp] theorem State.takeAnswer_out : s.takeAnswer.out = s.out := rfl
@[simp] theorem State.takeAnswer_lut : s.takeAnswer.lut = s.lut := rfl
@[simp] theorem State.takeAnswer_seq : s.takeAnswer.seq = s.seq := rfl
@[simp] theorem State.takeAnswer_scratch : s.takeAnswer.scratch = s.scratch := rfl
@[simp] theorem State.takeAnswer_devbuf : s.takeAnswer.devbuf = s.devbuf := rfl
@[simp] theorem State.takeAnswer_stale : s.takeAnswer.stale = s.stale := rfl
@[simp] theorem State.takeAnswer_chan : s.takeAnswer.chan = { s.chan with outstanding := none, answer := none } := rfl
@[simp] theorem State.takeAnswer_agenda : s.takeAnswer.agenda = s.agenda := rfl
@[simp] theorem State.takeAnswer_host : s.takeAnswer.host = s.host := rfl

/-! `State.deviceWriteByte` -/

@[simp] theorem State.deviceWriteByte_ring (a : Word) (b : Byte) : (s.deviceWriteByte a b).ring = s.ring := rfl
@[simp] theorem State.deviceWriteByte_status (a : Word) (b : Byte) : (s.deviceWriteByte a b).status = s.status := rfl
@[simp] theorem State.deviceWriteByte_cfg (a : Word) (b : Byte) : (s.deviceWriteByte a b).cfg = s.cfg := rfl
@[simp] theorem State.deviceWriteByte_out (a : Word) (b : Byte) : (s.deviceWriteByte a b).out = s.out := rfl
@[simp] theorem State.deviceWriteByte_lut (a : Word) (b : Byte) : (s.deviceWriteByte a b).lut = s.lut := rfl
@[simp] theorem State.deviceWriteByte_seq (a : Word) (b : Byte) : (s.deviceWriteByte a b).seq = s.seq := rfl
@[simp] theorem State.deviceWriteByte_scratch (a : Word) (b : Byte) : (s.deviceWriteByte a b).scratch = s.scratch := rfl
@[simp] theorem State.deviceWriteByte_devbuf (a : Word) (b : Byte) : (s.deviceWriteByte a b).devbuf = Memory.write s.devbuf a.toNat b :=
  rfl
@[simp] theorem State.deviceWriteByte_stale (a : Word) (b : Byte) : (s.deviceWriteByte a b).stale = (a.toNat, s.devbufByte a.toNat) :: s.stale :=
  rfl
@[simp] theorem State.deviceWriteByte_chan (a : Word) (b : Byte) : (s.deviceWriteByte a b).chan = s.chan := rfl
@[simp] theorem State.deviceWriteByte_agenda (a : Word) (b : Byte) : (s.deviceWriteByte a b).agenda = s.agenda := rfl
@[simp] theorem State.deviceWriteByte_host (a : Word) (b : Byte) : (s.deviceWriteByte a b).host = s.host := rfl

/-! `State.reply` -/

@[simp] theorem State.reply_ring (w : Word) : (s.reply w).ring = s.ring := rfl
@[simp] theorem State.reply_status (w : Word) : (s.reply w).status = s.status := rfl
@[simp] theorem State.reply_cfg (w : Word) : (s.reply w).cfg = s.cfg := rfl
@[simp] theorem State.reply_out (w : Word) : (s.reply w).out = s.out := rfl
@[simp] theorem State.reply_lut (w : Word) : (s.reply w).lut = s.lut := rfl
@[simp] theorem State.reply_seq (w : Word) : (s.reply w).seq = s.seq := rfl
@[simp] theorem State.reply_scratch (w : Word) : (s.reply w).scratch = s.scratch := rfl
@[simp] theorem State.reply_devbuf (w : Word) : (s.reply w).devbuf = s.devbuf := rfl
@[simp] theorem State.reply_stale (w : Word) : (s.reply w).stale = s.stale := rfl
@[simp] theorem State.reply_chan (w : Word) : (s.reply w).chan = s.chan := rfl
@[simp] theorem State.reply_agenda (w : Word) : (s.reply w).agenda = s.agenda := rfl
@[simp] theorem State.reply_host (w : Word) : (s.reply w).host = { s.host with data := w } := rfl

/-! `State.replyDrawn` -/

@[simp] theorem State.replyDrawn_ring (w : Word) : (s.replyDrawn w).ring = s.ring := rfl
@[simp] theorem State.replyDrawn_status (w : Word) : (s.replyDrawn w).status = s.status := rfl
@[simp] theorem State.replyDrawn_cfg (w : Word) : (s.replyDrawn w).cfg = s.cfg := rfl
@[simp] theorem State.replyDrawn_out (w : Word) : (s.replyDrawn w).out = s.out := rfl
@[simp] theorem State.replyDrawn_lut (w : Word) : (s.replyDrawn w).lut = s.lut := rfl
@[simp] theorem State.replyDrawn_seq (w : Word) : (s.replyDrawn w).seq = s.seq := rfl
@[simp] theorem State.replyDrawn_scratch (w : Word) : (s.replyDrawn w).scratch = s.scratch := rfl
@[simp] theorem State.replyDrawn_devbuf (w : Word) : (s.replyDrawn w).devbuf = s.devbuf := rfl
@[simp] theorem State.replyDrawn_stale (w : Word) : (s.replyDrawn w).stale = s.stale := rfl
@[simp] theorem State.replyDrawn_chan (w : Word) : (s.replyDrawn w).chan = s.chan := rfl
@[simp] theorem State.replyDrawn_agenda (w : Word) : (s.replyDrawn w).agenda = s.agenda := rfl
@[simp] theorem State.replyDrawn_host (w : Word) : (s.replyDrawn w).host = { s.host with data := w, draws := s.host.draws + 1 } :=
  rfl

/-! `State.replyRacing` -/

@[simp] theorem State.replyRacing_ring (b : Byte) (others : List Byte) : (s.replyRacing b others).ring = s.ring := by
  cases others <;> rfl
@[simp] theorem State.replyRacing_status (b : Byte) (others : List Byte) : (s.replyRacing b others).status = s.status := by
  cases others <;> rfl
@[simp] theorem State.replyRacing_cfg (b : Byte) (others : List Byte) : (s.replyRacing b others).cfg = s.cfg := by
  cases others <;> rfl
@[simp] theorem State.replyRacing_out (b : Byte) (others : List Byte) : (s.replyRacing b others).out = s.out := by
  cases others <;> rfl
@[simp] theorem State.replyRacing_lut (b : Byte) (others : List Byte) : (s.replyRacing b others).lut = s.lut := by
  cases others <;> rfl
@[simp] theorem State.replyRacing_seq (b : Byte) (others : List Byte) : (s.replyRacing b others).seq = s.seq := by
  cases others <;> rfl
@[simp] theorem State.replyRacing_scratch (b : Byte) (others : List Byte) : (s.replyRacing b others).scratch = s.scratch := by
  cases others <;> rfl
@[simp] theorem State.replyRacing_devbuf (b : Byte) (others : List Byte) : (s.replyRacing b others).devbuf = s.devbuf := by
  cases others <;> rfl
@[simp] theorem State.replyRacing_stale (b : Byte) (others : List Byte) : (s.replyRacing b others).stale = s.stale := by
  cases others <;> rfl
@[simp] theorem State.replyRacing_chan (b : Byte) (others : List Byte) : (s.replyRacing b others).chan = s.chan := by
  cases others <;> rfl
@[simp] theorem State.replyRacing_agenda (b : Byte) (others : List Byte) : (s.replyRacing b others).agenda = s.agenda := by
  cases others <;> rfl
@[simp] theorem State.replyRacing_olderScratch (b : Byte) (others : List Byte) :
    (s.replyRacing b others).host.olderScratch = s.host.olderScratch := by
  cases others <;> rfl
@[simp] theorem State.replyRacing_conversions (b : Byte) (others : List Byte) :
    (s.replyRacing b others).host.conversions = s.host.conversions := by
  cases others <;> rfl
@[simp] theorem State.replyRacing_epoch (b : Byte) (others : List Byte) :
    (s.replyRacing b others).host.epoch = s.host.epoch := by
  cases others <;> rfl

/-! `State.hostReadDevbufByte` -/

@[simp] theorem State.hostReadDevbufByte_ring (a : Word) : (s.hostReadDevbufByte a).ring = s.ring :=
  State.replyRacing_ring ..
@[simp] theorem State.hostReadDevbufByte_status (a : Word) : (s.hostReadDevbufByte a).status = s.status :=
  State.replyRacing_status ..
@[simp] theorem State.hostReadDevbufByte_cfg (a : Word) : (s.hostReadDevbufByte a).cfg = s.cfg :=
  State.replyRacing_cfg ..
@[simp] theorem State.hostReadDevbufByte_out (a : Word) : (s.hostReadDevbufByte a).out = s.out :=
  State.replyRacing_out ..
@[simp] theorem State.hostReadDevbufByte_lut (a : Word) : (s.hostReadDevbufByte a).lut = s.lut :=
  State.replyRacing_lut ..
@[simp] theorem State.hostReadDevbufByte_seq (a : Word) : (s.hostReadDevbufByte a).seq = s.seq :=
  State.replyRacing_seq ..
@[simp] theorem State.hostReadDevbufByte_scratch (a : Word) : (s.hostReadDevbufByte a).scratch = s.scratch :=
  State.replyRacing_scratch ..
@[simp] theorem State.hostReadDevbufByte_devbuf (a : Word) : (s.hostReadDevbufByte a).devbuf = s.devbuf :=
  State.replyRacing_devbuf ..
@[simp] theorem State.hostReadDevbufByte_stale (a : Word) : (s.hostReadDevbufByte a).stale = s.stale :=
  State.replyRacing_stale ..
@[simp] theorem State.hostReadDevbufByte_chan (a : Word) : (s.hostReadDevbufByte a).chan = s.chan :=
  State.replyRacing_chan ..
@[simp] theorem State.hostReadDevbufByte_agenda (a : Word) : (s.hostReadDevbufByte a).agenda = s.agenda :=
  State.replyRacing_agenda ..
@[simp] theorem State.hostReadDevbufByte_olderScratch (a : Word) :
    (s.hostReadDevbufByte a).host.olderScratch = s.host.olderScratch := State.replyRacing_olderScratch ..
@[simp] theorem State.hostReadDevbufByte_conversions (a : Word) :
    (s.hostReadDevbufByte a).host.conversions = s.host.conversions := State.replyRacing_conversions ..
@[simp] theorem State.hostReadDevbufByte_epoch (a : Word) :
    (s.hostReadDevbufByte a).host.epoch = s.host.epoch := State.replyRacing_epoch ..

/-! `State.keepOlderScratch` -/

@[simp] theorem State.keepOlderScratch_ring : (s.keepOlderScratch).ring = s.ring := rfl
@[simp] theorem State.keepOlderScratch_status : (s.keepOlderScratch).status = s.status := rfl
@[simp] theorem State.keepOlderScratch_cfg : (s.keepOlderScratch).cfg = s.cfg := rfl
@[simp] theorem State.keepOlderScratch_out : (s.keepOlderScratch).out = s.out := rfl
@[simp] theorem State.keepOlderScratch_lut : (s.keepOlderScratch).lut = s.lut := rfl
@[simp] theorem State.keepOlderScratch_seq : (s.keepOlderScratch).seq = s.seq := rfl
@[simp] theorem State.keepOlderScratch_scratch : (s.keepOlderScratch).scratch = s.scratch := rfl
@[simp] theorem State.keepOlderScratch_devbuf : (s.keepOlderScratch).devbuf = s.devbuf := rfl
@[simp] theorem State.keepOlderScratch_stale : (s.keepOlderScratch).stale = s.stale := rfl
@[simp] theorem State.keepOlderScratch_chan : (s.keepOlderScratch).chan = s.chan := rfl
@[simp] theorem State.keepOlderScratch_agenda : (s.keepOlderScratch).agenda = s.agenda := rfl
@[simp] theorem State.keepOlderScratch_host : (s.keepOlderScratch).host =
    { s.host with olderScratch := s.scratch :: s.host.olderScratch, conversions := s.host.conversions + 1 } := rfl

/-! `State.closeRace` -/

@[simp] theorem State.closeRace_ring : s.closeRace.ring = s.ring := rfl
@[simp] theorem State.closeRace_status : s.closeRace.status = s.status := rfl
@[simp] theorem State.closeRace_cfg : s.closeRace.cfg = s.cfg := rfl
@[simp] theorem State.closeRace_out : s.closeRace.out = s.out := rfl
@[simp] theorem State.closeRace_lut : s.closeRace.lut = s.lut := rfl
@[simp] theorem State.closeRace_seq : s.closeRace.seq = s.seq := rfl
@[simp] theorem State.closeRace_scratch : s.closeRace.scratch = s.scratch := rfl
@[simp] theorem State.closeRace_devbuf : s.closeRace.devbuf = s.devbuf := rfl
@[simp] theorem State.closeRace_stale : s.closeRace.stale = s.stale := rfl
@[simp] theorem State.closeRace_chan : s.closeRace.chan = s.chan := rfl
@[simp] theorem State.closeRace_agenda : s.closeRace.agenda = s.agenda := rfl
@[simp] theorem State.closeRace_host : s.closeRace.host = { s.host with olderScratch := [] } := rfl

/-! `State.resetEngine` -/

@[simp] theorem State.resetEngine_ring : s.resetEngine.ring = State.reset.ring := rfl
@[simp] theorem State.resetEngine_status : s.resetEngine.status = State.reset.status := rfl
@[simp] theorem State.resetEngine_cfg : s.resetEngine.cfg = State.reset.cfg := rfl
@[simp] theorem State.resetEngine_out : s.resetEngine.out = State.reset.out := rfl
@[simp] theorem State.resetEngine_lut : s.resetEngine.lut = State.reset.lut := rfl
@[simp] theorem State.resetEngine_seq : s.resetEngine.seq = State.reset.seq := rfl
@[simp] theorem State.resetEngine_scratch : s.resetEngine.scratch = State.reset.scratch := rfl
@[simp] theorem State.resetEngine_devbuf : s.resetEngine.devbuf = s.devbuf := rfl
@[simp] theorem State.resetEngine_stale : s.resetEngine.stale = s.stale := rfl
@[simp] theorem State.resetEngine_chan : s.resetEngine.chan = State.reset.chan := rfl
@[simp] theorem State.resetEngine_agenda : s.resetEngine.agenda = s.agenda := rfl
@[simp] theorem State.resetEngine_host : s.resetEngine.host = { s.host with olderScratch := [], epoch := s.host.epoch + 1 } := rfl

end Sys2Proof.Machine
end

