-- ==== Sys2Proof/Laws/Conversion.lean ====
section
/-! SUPPORT. What the conversion step can do: one lemma per shared operation. -/

namespace Sys2Proof.Machine

/-- The end of a converting kernel completes exactly when the image and the input fit. -/
theorem endInScratch_eq_next_iff (s t : State) (fmt : PixelFormat) (image : List Byte) :
    s.endInScratch fmt image = .next t ↔ s.fits fmt ∧ t = s.scratchResult fmt image := by
  by_cases h : s.fits fmt
  · rw [show s.endInScratch fmt image = .next (s.scratchResult fmt image) from if_pos h, Host.Outcome.next.injEq]
    exact ⟨fun e => ⟨h, e.symm⟩, fun e => e.2.symm⟩
  · refine ⟨fun e => absurd e ?_, fun e => absurd e.1 h⟩
    rw [State.endInScratch, if_neg h]
    split <;> exact nofun

theorem endInScratch_of_fits {s : State} {fmt : PixelFormat} (h : s.fits fmt) (image : List Byte) :
    s.endInScratch fmt image = .next (s.scratchResult fmt image) := if_pos h

/-- SCRATCH holds `MAX_PIXELS` pixels. -/
theorem scratchCap_iff (n : Nat) : 3 * n ≤ Config.scratchCap ↔ n ≤ Config.maxPixels := by
  unfold Config.scratchCap; omega

/-- What the exec of a kernel row can be: the image in SCRATCH, or one of the three views. -/
theorem exec_kernel (f : PixelFormat) (s : State) :
    exec f.kernel s =
      if usesScratch f s.cfg.bgrInvert then s.endInScratch f (s.imageOf f)
      else match f with
        | .rgb24 => .next (s.endAsView .rgb24 3 (3 * s.pixelCount))
        | .grey => .next (s.endAsView .grey 1 s.pixelCount)
        | _ => .next (s.endAsView .other 0 s.frameSize) := by
  cases f <;> rfl

/-- The conversion step runs the kernel of PIXFMT.FMT (R101). -/
theorem conversionStep_eq_exec (s : State) : s.conversionStep = exec s.format.kernel s := by
  unfold State.conversionStep
  cases s.format <;> rfl

/-- A kernel's image is `3 * W * H` bytes (R61). -/
theorem imageOf_length {s : State} {f : PixelFormat} (h : usesScratch f s.cfg.bgrInvert = true) :
    (s.imageOf f).length = 3 * s.pixelCount := by
  cases f <;> simp_all [State.imageOf, usesScratch, State.yuv420pImage, State.yuv422pImage, State.yuyvImage,
    State.rgb555Image, State.rgb565Image, State.swappedImage]

section views

variable (s : State) (fmt : PixelFormat) (channels : BitVec 2) (len : Nat)

@[simp] theorem endAsView_ring : (s.endAsView fmt channels len).ring = s.ring := rfl
@[simp] theorem endAsView_status :
    (s.endAsView fmt channels len).status = { s.status with outValid := true, done := true, err := 0 } := rfl
@[simp] theorem endAsView_cfg : (s.endAsView fmt channels len).cfg = s.cfg := rfl
@[simp] theorem endAsView_out :
    (s.endAsView fmt channels len).out =
      { dim := s.dimWord, info := infoWord fmt false channels, addr := word32 s.slice, len := word32 len } := rfl
@[simp] theorem endAsView_lut : (s.endAsView fmt channels len).lut = s.lut := rfl
@[simp] theorem endAsView_seq : (s.endAsView fmt channels len).seq = { s.seq with phase := .idle } := rfl
@[simp] theorem endAsView_scratch : (s.endAsView fmt channels len).scratch = s.scratch := rfl
@[simp] theorem endAsView_devbuf : (s.endAsView fmt channels len).devbuf = s.devbuf := rfl
@[simp] theorem endAsView_stale : (s.endAsView fmt channels len).stale = s.stale := rfl
@[simp] theorem endAsView_chan : (s.endAsView fmt channels len).chan = s.chan := rfl
@[simp] theorem endAsView_agenda : (s.endAsView fmt channels len).agenda = s.agenda := rfl
@[simp] theorem endAsView_host : (s.endAsView fmt channels len).host = s.host := rfl

end views

section images

variable (s : State) (fmt : PixelFormat) (image : List Byte)

@[simp] theorem scratchResult_ring : (s.scratchResult fmt image).ring = s.ring := rfl
@[simp] theorem scratchResult_status :
    (s.scratchResult fmt image).status = { s.status with outValid := true, done := true, err := 0 } := rfl
@[simp] theorem scratchResult_cfg : (s.scratchResult fmt image).cfg = s.cfg := rfl
@[simp] theorem scratchResult_out :
    (s.scratchResult fmt image).out =
      { dim := s.dimWord, info := infoWord fmt true 3, addr := 0, len := word32 (3 * s.pixelCount) } := rfl
@[simp] theorem scratchResult_lut : (s.scratchResult fmt image).lut = s.lut := rfl
@[simp] theorem scratchResult_seq : (s.scratchResult fmt image).seq = { s.seq with phase := .idle } := rfl
@[simp] theorem scratchResult_scratch :
    (s.scratchResult fmt image).scratch = Memory.writeBytes s.scratch 0 image := rfl
@[simp] theorem scratchResult_devbuf : (s.scratchResult fmt image).devbuf = s.devbuf := rfl
@[simp] theorem scratchResult_stale : (s.scratchResult fmt image).stale = s.stale := rfl
@[simp] theorem scratchResult_chan : (s.scratchResult fmt image).chan = s.chan := rfl
@[simp] theorem scratchResult_agenda : (s.scratchResult fmt image).agenda = s.agenda := rfl
@[simp] theorem scratchResult_host : (s.scratchResult fmt image).host = s.keepOlderScratch.host := rfl

end images

end Sys2Proof.Machine
end

