-- ==== Sys2Proof/Laws/PerInstr.lean ====
section
/-! SUPPORT. A statement about every instruction, proved constructor by constructor: its encoding is an instance of its
row of spec/opcode_table.json. -/

namespace Sys2Proof.Laws

/-- A row of spec/opcode_table.json: its width in bits, `mask` and `match`. -/
structure TableRow where
  bits : Nat
  mask : Nat
  pattern : Nat
deriving DecidableEq, Repr

/-- The row of each instruction, copied from spec/opcode_table.json. -/
def tableRow : Instr → TableRow
  | .buildLut => ⟨32, 0xFFFFFFFF, 0x00000001⟩
  | .reqcap => ⟨32, 0xFFFFFFFF, 0x00000002⟩
  | .await => ⟨32, 0xFFFFFFFF, 0x00000003⟩
  | .convert _ => ⟨32, 0xFFFF00FF, 0x00000004⟩
  | .kernelYuv420p => ⟨3, 0x7, 0⟩
  | .kernelYuv422p => ⟨3, 0x7, 1⟩
  | .kernelYuyv => ⟨3, 0x7, 2⟩
  | .kernelRgb555 => ⟨3, 0x7, 3⟩
  | .kernelRgb565 => ⟨3, 0x7, 4⟩
  | .kernelRgb24 => ⟨3, 0x7, 5⟩
  | .kernelGrey => ⟨3, 0x7, 6⟩
  | .kernelOther => ⟨3, 0x7, 7⟩

/-- A code is an instance of a row: the row's width, and the row's pattern under its mask. -/
def matchesRow (c : Code) (row : TableRow) : Prop :=
  match c with
  | .command w => row.bits = 32 ∧ w.toNat &&& row.mask = row.pattern
  | .tag t => row.bits = 3 ∧ t.toNat &&& row.mask = row.pattern

/-- No word is an instance of two rows: rows of one width differ at a bit that both fix. -/
theorem tableRows_disjoint :
    ([.buildLut, .reqcap, .await, .convert 0, .kernelYuv420p, .kernelYuv422p, .kernelYuyv, .kernelRgb555,
      .kernelRgb565, .kernelRgb24, .kernelGrey, .kernelOther] : List Instr).Pairwise fun i j =>
        (tableRow i).bits = (tableRow j).bits →
          (tableRow i).pattern &&& (tableRow j).mask ≠ (tableRow j).pattern &&& (tableRow i).mask := by
  decide

namespace RowMatch

/-- The encoding of a well-formed instruction is an instance of its row (30_encoding.md R90 to R98). -/
def Statement (i : Instr) : Prop := i.wf = true → matchesRow (encode i) (tableRow i)

theorem buildLut : Statement .buildLut := fun _ => ⟨rfl, rfl⟩
theorem reqcap : Statement .reqcap := fun _ => ⟨rfl, rfl⟩
theorem await : Statement .await := fun _ => ⟨rfl, rfl⟩

theorem convert (slot : Nat) : Statement (.convert slot) := fun _ => by
  have h : ∀ b : BitVec 8,
      ((0 : BitVec 16) ++ b ++ (0 : BitVec 4) ++ (4 : BitVec 4)).toNat &&& 0xFFFF00FF = 4 := by decide +kernel
  exact ⟨rfl, h _⟩

theorem kernelYuv420p : Statement .kernelYuv420p := fun _ => ⟨rfl, rfl⟩
theorem kernelYuv422p : Statement .kernelYuv422p := fun _ => ⟨rfl, rfl⟩
theorem kernelYuyv : Statement .kernelYuyv := fun _ => ⟨rfl, rfl⟩
theorem kernelRgb555 : Statement .kernelRgb555 := fun _ => ⟨rfl, rfl⟩
theorem kernelRgb565 : Statement .kernelRgb565 := fun _ => ⟨rfl, rfl⟩
theorem kernelRgb24 : Statement .kernelRgb24 := fun _ => ⟨rfl, rfl⟩
theorem kernelGrey : Statement .kernelGrey := fun _ => ⟨rfl, rfl⟩
theorem kernelOther : Statement .kernelOther := fun _ => ⟨rfl, rfl⟩

end RowMatch

end Sys2Proof.Laws
end

