-- ==== Sys2Proof/Laws/Races.lean ====
section
/-! SUPPORT. What a racing read can return, for the host on SCRATCH and for a kernel on its input. -/

namespace Sys2Proof.Machine

/-- Without others a racing read is exact. -/
@[simp] theorem racingRead_nil (current : Byte) (n : Nat) : racingRead current [] n = current := rfl

/-- A racing read returns the entry that the free value selects. -/
theorem racingRead_getElem? (current : Byte) (others : List Byte) (n : Nat) :
    (current :: others)[n % (current :: others).length]? = some (racingRead current others n) := by
  cases others with
  | nil => simp [Nat.mod_one]
  | cons b bs =>
    have h : n % (bs.length + 2) < (current :: b :: bs).length := Nat.mod_lt _ (by simp)
    simp only [racingRead, List.length_cons, List.getD_eq_getElem?_getD, List.getElem?_eq_getElem h, Option.getD_some]

/-- A racing read returns the present value or one of the others. -/
theorem racingRead_mem (current : Byte) (others : List Byte) (n : Nat) :
    racingRead current others n = current ∨ racingRead current others n ∈ others :=
  List.mem_cons.1 (List.mem_of_getElem? (racingRead_getElem? current others n))

/-- An old value of a DEVBUF byte is one that a device write replaced there. -/
theorem mem_staleBytes {s : State} {addr : Nat} {b : Byte} : b ∈ s.staleBytes addr ↔ (addr, b) ∈ s.stale := by
  simp [State.staleBytes]

/-- A host read of DEVBUF is exact where nothing races (R78). -/
theorem hostReadDevbufByte_settled {s : State} {addr : Word} (h : ∀ b, (addr.toNat, b) ∉ s.stale) :
    s.hostReadDevbufByte addr = s.reply ((s.devbufByte addr.toNat).setWidth 32) := by
  rw [State.hostReadDevbufByte, List.eq_nil_iff_forall_not_mem.2 fun b hb => h b (mem_staleBytes.1 hb)]
  rfl

/-- What a kernel reads for `in[k]`: the byte or an old value of it (R267). -/
theorem readInput_cases (s : State) (p k : Nat) :
    s.readInput p k = s.inByte k ∨ (s.slice + k, s.readInput p k) ∈ s.stale :=
  (racingRead_mem _ _ _).imp_right mem_staleBytes.1

/-- Where nothing races a kernel reads the byte (R267). -/
theorem readInput_settled {s : State} {k : Nat} (h : ∀ b, (s.slice + k, b) ∉ s.stale) (p : Nat) :
    s.readInput p k = s.inByte k :=
  (readInput_cases s p k).resolve_right (h _)

/-- A racing reply returns a racing read, and draws when there is a race. -/
theorem replyRacing_eq (s : State) (current : Byte) (others : List Byte) :
    s.replyRacing current others = { s with host := { s.host with
      data := (racingRead current others (Config.hostView s.host.draws)).setWidth 32
      draws := (s.replyRacing current others).host.draws } } := by
  cases others <;> rfl

/-- A racing reply changes the word the host has read and the number of draws, nothing else. -/
theorem replyRacing_frame (s : State) (current : Byte) (others : List Byte) :
    s.replyRacing current others = { s with host := { s.host with
      data := (s.replyRacing current others).host.data, draws := (s.replyRacing current others).host.draws } } := by
  cases others <;> rfl

/-- In a race the reply takes a fresh draw. -/
theorem replyRacing_draws {s : State} {current : Byte} {others : List Byte} (h : others ≠ []) :
    (s.replyRacing current others).host.draws = s.host.draws + 1 := by
  cases others with
  | nil => exact absurd rfl h
  | cons => rfl

/-- Outside the phase CONV no new SCRATCH byte is on its way. -/
theorem newScratch_eq_nil {s : State} (h : s.seq.phase ≠ .conv) (a : Nat) : s.newScratch a = [] :=
  if_neg fun hc => h hc.1

/-- Once the command is done no new SCRATCH byte is on its way. -/
theorem newScratch_of_done {s : State} (h : s.status.done = true) (a : Nat) : s.newScratch a = [] :=
  if_neg fun hc => by simp [h] at hc

/-- While a converting kernel runs the new byte is the image's (R269). -/
theorem newScratch_eq {s : State} (hp : s.seq.phase = .conv) (hd : s.status.done = false)
    (hu : usesScratch s.format s.cfg.bgrInvert = true) (a : Nat) :
    s.newScratch a = (s.imageOf s.format)[a]?.toList := if_pos ⟨hp, hd, hu⟩

end Sys2Proof.Machine
end

