-- ==== Sys2Proof/Laws/Words.lean ====
section
/-! SUPPORT. The bits of the words software reads. -/

namespace Sys2Proof.Machine

/-- The layout of STATUS (R26), for every value of its fields. -/
theorem statusLayout_bits (err : BitVec 4) (ovr outValid lutValid done busy : Bool) :
    let w : Word := (0 : BitVec 20) ++ err ++ (0 : BitVec 3) ++ BitVec.ofBool ovr ++ BitVec.ofBool outValid
      ++ BitVec.ofBool lutValid ++ BitVec.ofBool done ++ BitVec.ofBool busy
    w.getLsbD 0 = busy ∧ w.getLsbD 1 = done ∧ w.getLsbD 2 = lutValid ∧ w.getLsbD 3 = outValid ∧ w.getLsbD 4 = ovr
      ∧ w.extractLsb' 5 3 = 0 ∧ w.extractLsb' 8 4 = err ∧ w.extractLsb' 12 20 = 0 := by
  revert err ovr outValid lutValid done busy
  decide +kernel

/-- The bits of STATUS (R26). -/
theorem statusWord_bits (s : State) :
    s.statusWord.getLsbD 0 = s.busy ∧ s.statusWord.getLsbD 1 = s.status.done
      ∧ s.statusWord.getLsbD 2 = s.status.lutValid ∧ s.statusWord.getLsbD 3 = s.status.outValid
      ∧ s.statusWord.getLsbD 4 = s.status.ovr ∧ s.statusWord.extractLsb' 5 3 = 0
      ∧ s.statusWord.extractLsb' 8 4 = s.status.err ∧ s.statusWord.extractLsb' 12 20 = 0 :=
  statusLayout_bits _ _ _ _ _ _

/-- A word whose bits 31..3 are 0 is its three low bits; CTRL has this form (R27). -/
theorem word_of_threeBits {v : Word} {a b c : Bool} (h0 : v.getLsbD 0 = a) (h1 : v.getLsbD 1 = b)
    (h2 : v.getLsbD 2 = c) (h3 : v.extractLsb' 3 29 = 0) :
    v = (0 : BitVec 29) ++ BitVec.ofBool c ++ BitVec.ofBool b ++ BitVec.ofBool a := by
  have hv : v = v.extractLsb' 3 29 ++ v.extractLsb' 2 1 ++ v.extractLsb' 1 1 ++ v.extractLsb' 0 1 := by
    apply BitVec.eq_of_getLsbD_eq
    intro i hi
    simp only [BitVec.getLsbD_append, BitVec.getLsbD_extractLsb']
    obtain rfl | rfl | rfl | h : i = 0 ∨ i = 1 ∨ i = 2 ∨ 3 ≤ i := by omega
    · rfl
    · rfl
    · rfl
    · simp only [show ¬ i < 1 by omega, show ¬ i - 1 < 1 by omega, show ¬ i - 1 - 1 < 1 by omega,
        show i - 1 - 1 - 1 < 29 by omega, show 3 + (i - 1 - 1 - 1) = i by omega, if_false, decide_true,
        Bool.true_and]
  have hb : ∀ i, v.extractLsb' i 1 = BitVec.ofBool (v.getLsbD i) := fun i => by
    apply BitVec.eq_of_getLsbD_eq
    intro j hj
    obtain rfl : j = 0 := by omega
    simp
  rw [hb, hb, hb, h0, h1, h2, h3] at hv
  exact hv

/-- A number that fits a register is what the register holds. -/
@[simp] theorem word32_toNat {n : Nat} (h : n < 2 ^ 32) : (word32 n).toNat = n := by
  rw [word32, if_pos h, BitVec.toNat_ofNat]
  omega

end Sys2Proof.Machine
end

