-- ==== Sys2Proof/Laws/Registers.lean ====
section
/-! SUPPORT. The register map, offset by offset (10_state.md R45), and what a host read or write of a register can do. -/

namespace Sys2Proof.Machine

/-! ### The table window -/

theorem ofOffset_lutY (c : Fin 256) : Reg.ofOffset (0x1000 + 4 * c.val) = .lutY c := by
  revert c; decide +kernel

theorem ofOffset_lutUv (c : Fin 256) : Reg.ofOffset (0x1400 + 4 * c.val) = .lutUv c := by
  revert c; decide +kernel

theorem ofOffset_lutRv (k : Fin 255) : Reg.ofOffset (0x1800 + 4 * k.val) = .lutRv k := by
  revert k; decide +kernel

theorem ofOffset_lutGu (k : Fin 255) : Reg.ofOffset (0x1C00 + 4 * k.val) = .lutGu k := by
  revert k; decide +kernel

theorem ofOffset_lutGv (k : Fin 255) : Reg.ofOffset (0x2000 + 4 * k.val) = .lutGv k := by
  revert k; decide +kernel

theorem ofOffset_lutBu (k : Fin 255) : Reg.ofOffset (0x2400 + 4 * k.val) = .lutBu k := by
  revert k; decide +kernel

/-- Every word of 0x1000..0x27F8 but the three gaps of R45 belongs to the table window. -/
theorem isWindow_ofOffset {offset : Nat} (h4 : offset % 4 = 0) (hlo : 0x1000 ≤ offset) (hhi : offset ≤ 0x27F8)
    (h1 : offset ≠ 0x1BFC) (h2 : offset ≠ 0x1FFC) (h3 : offset ≠ 0x23FC) :
    (Reg.ofOffset offset).isWindow = true := by
  have all : ∀ n : Fin 1535, n.val ≠ 767 → n.val ≠ 1023 → n.val ≠ 1279 →
      (Reg.ofOffset (0x1000 + 4 * n.val)).isWindow = true := by decide +kernel
  have hn : offset / 4 - 1024 < 1535 := by omega
  have := all ⟨offset / 4 - 1024, hn⟩ (by simp only; omega) (by simp only; omega) (by simp only; omega)
  rwa [show 0x1000 + 4 * (offset / 4 - 1024) = offset by omega] at this

/-- An entry of a signed table, read whole and sign-extended, is the entry's value (R48). -/
theorem signExtend_signedEntry (t : Vector (BitVec 16) 255) {k : Int} {n : Fin 255} (hn : (n.val : Int) = k + 127) :
    ((t[n]).signExtend 32).toInt = signedEntry t k := by
  have h : (k + 127).toNat < 255 ∧ 0 ≤ k + 127 := by omega
  have he : (k + 127).toNat = n.val := by omega
  rw [BitVec.toInt_signExtend_of_le (by omega)]
  simp [signedEntry, h, he]

/-! ### Reads and writes -/

/-- A read of a register changes what the host has seen, and nothing else (R41, R42). -/
theorem readReg_eq (s : State) (r : Reg) : s.readReg r = { s with host := (s.readReg r).host } := by
  unfold State.readReg
  split_ifs <;> rfl

/-- A read of a register outside the table window returns its value. -/
theorem readReg_data {s : State} {r : Reg} (h : r.isWindow = false) : (s.readReg r).host.data = s.regValue r := by
  unfold State.readReg
  rw [h]
  simp only [Bool.false_and, Bool.false_eq_true, if_false]
  split_ifs <;> rfl

/-- A read of the table window after BUILD_LUT returns the stored entry (R48). -/
theorem readReg_window {s : State} {r : Reg} (h : r.isWindow = true) (hl : s.status.lutValid = true) :
    s.readReg r = s.reply (s.regValue r) := by
  have hr : r ≠ .status := by rintro rfl; exact absurd h nofun
  simp [State.readReg, hl, hr]

/-- What a write to a register other than CMD can do: nothing, OVR, or, while BUSY is 0, a configuration field and with
FRAME_COUNT the three indices (R26, R31, R41, R44). -/
theorem writeReg_cases (s : State) (r : Reg) (v : Word) :
    s.writeReg r v = s ∨ (r = .status ∧ v.getLsbD 4 = true ∧ s.writeReg r v = s.clearOvr)
      ∨ (s.seq.phase ≠ .idle ∧ s.writeReg r v = s.dropWrite)
      ∨ (s.seq.phase = .idle ∧ r.isConfig = true ∧ s.writeReg r v = s.writeConfig r v) := by
  unfold State.writeReg State.busy
  split_ifs with h1 h2 h3 h4
  · exact .inr (.inl ⟨h1, h2, rfl⟩)
  · exact .inl rfl
  · exact .inr (.inr (.inl ⟨by simpa using h4, rfl⟩))
  · exact .inr (.inr (.inr ⟨by simpa using h4, h3, rfl⟩))
  · exact .inl rfl

/-- A configuration write touches the configuration and, for FRAME_COUNT, the indices (R31). -/
theorem writeConfig_eq (s : State) (r : Reg) (v : Word) :
    s.writeConfig r v = { s with cfg := (s.writeConfig r v).cfg, ring := (s.writeConfig r v).ring }
      ∧ ((s.writeConfig r v).ring = s.ring ∧ (s.writeConfig r v).cfg.frameCount = s.cfg.frameCount
          ∨ r = .frameCount ∧ (s.writeConfig r v).ring = { capIndex := 0, syncIndex := 0, activeIndex := 0 }) := by
  cases r <;> exact ⟨rfl, by first | exact .inl ⟨rfl, rfl⟩ | exact .inr ⟨rfl, rfl⟩⟩

/-- Only offset 0x18 names FRAME_COUNT. -/
theorem ofOffset_eq_frameCount_iff (offset : Nat) : Reg.ofOffset offset = .frameCount ↔ offset = 0x18 := by
  refine ⟨fun h => ?_, fun h => by rw [h]; rfl⟩
  unfold Reg.ofOffset at h
  split at h
  · split at h <;> first | rfl | exact absurd h nofun
  · unfold windowEntry at h
    split_ifs at h

/-- Only offset 4 names STATUS. -/
theorem ofOffset_eq_status_iff (offset : Nat) : Reg.ofOffset offset = .status ↔ offset = 0x04 := by
  refine ⟨fun h => ?_, fun h => by rw [h]; rfl⟩
  unfold Reg.ofOffset at h
  split at h
  · split at h <;> first | rfl | exact absurd h nofun
  · unfold windowEntry at h
    split_ifs at h

end Sys2Proof.Machine
end

