-- ==== Sys2Proof/Laws/Step.lean ====
section
/-! SUPPORT. Said once: everything one step can do. Proofs about `step` take its cases from here instead of unfolding it. -/

namespace Sys2Proof.Machine

/-- The outcome a turn has. -/
def runTurn : Turn → Host.Outcome State Fault Refusal
  | .run i s => exec i s
  | .over o => o

theorem step_eq (s : State) : step s = runTurn s.nextTurn := by
  unfold step runTurn
  rfl

/-- With an empty agenda the engine has the turn. -/
theorem step_of_nil {s : State} (h : s.agenda = []) : step s = runTurn s.engineTurn := by
  rw [step_eq, State.nextTurn, h]

/-- Otherwise the first event is taken off the agenda. -/
theorem step_of_cons {s : State} {e : Event} {rest : List Event} (h : s.agenda = e :: rest) :
    step s = runTurn (State.eventTurn { s with agenda := rest } e) := by
  rw [step_eq, State.nextTurn, h]

/-- The state in which the burst has one wait less to do (R147 step B). -/
def oneWaitLess (s : State) : State :=
  { s.takeAnswer with seq := { s.seq with burstLeft := s.seq.burstLeft - 1 } }

/-- What a turn of the engine can do. -/
inductive EngineMove (s : State) : State → Prop where
  | nothing (h : s.seq.phase = .idle) : EngineMove s s
  | build (h : s.seq.phase = .lutB) : EngineMove s s.buildTables
  | noAnswer (h : s.seq.phase = .rqQ ∨ s.seq.phase = .awW ∨ s.seq.phase = .awQ) (ha : s.chan.answer = none) :
      EngineMove s s
  | queueFailed (h : s.seq.phase = .rqQ) (ha : s.chan.answer = some .fail) : EngineMove s (s.takeAnswer.raise .queue)
  | queueDone (h : s.seq.phase = .rqQ) (ha : s.chan.answer = some .ok) : EngineMove s s.takeAnswer.advanceCap.finish
  | waitFailed (h : s.seq.phase = .awW) (ha : s.chan.answer = some .fail) : EngineMove s (s.takeAnswer.raise .wait)
  | requeued (h : s.seq.phase = .awW) (ha : s.chan.answer = some .ok) (hb : 1 < s.seq.burstLeft) :
      EngineMove s (oneWaitLess s).requeue
  | lastWaitDone (h : s.seq.phase = .awW) (ha : s.chan.answer = some .ok) (hb : s.seq.burstLeft ≤ 1) :
      EngineMove s (oneWaitLess s).startAwaitedConversion
  | requeueFailed (h : s.seq.phase = .awQ) (ha : s.chan.answer = some .fail) : EngineMove s (s.takeAnswer.raise .queue)
  | requeueDone (h : s.seq.phase = .awQ) (ha : s.chan.answer = some .ok) : EngineMove s s.takeAnswer.sendWait
  | image (h : s.seq.phase = .conv) (hs : usesScratch s.format s.cfg.bgrInvert = true) (hf : s.fits s.format) :
      EngineMove s (s.scratchResult s.format (s.imageOf s.format))
  | view (h : s.seq.phase = .conv) (hs : usesScratch s.format s.cfg.bgrInvert = false) (fmt : PixelFormat)
      (channels : BitVec 2) (len : Nat) : EngineMove s (s.endAsView fmt channels len)

/-- What REQCAP's second step can do (R140 step B). -/
theorem endReqcap_move {s : State} (h : s.seq.phase = .rqQ) : EngineMove s s.endReqcap := by
  unfold State.endReqcap
  split
  · next ha => exact .noAnswer (.inl h) ha
  · next ha => exact .queueFailed h ha
  · next ha => exact .queueDone h ha

/-- What step B of AWAIT can do (R147). -/
theorem endWait_move {s : State} (h : s.seq.phase = .awW) : EngineMove s s.endWait := by
  unfold State.endWait
  split
  · next ha => exact .noAnswer (.inr (.inl h)) ha
  · next ha => exact .waitFailed h ha
  · next ha =>
    by_cases hb : 1 < s.seq.burstLeft
    · rw [show s.takeAnswer.endBurst = (oneWaitLess s).requeue from
        if_pos (show 0 < s.seq.burstLeft - 1 by omega)]
      exact .requeued h ha hb
    · rw [show s.takeAnswer.endBurst = (oneWaitLess s).startAwaitedConversion from
        if_neg (show ¬ 0 < s.seq.burstLeft - 1 by omega)]
      exact .lastWaitDone h ha (by omega)

/-- What step C of AWAIT can do (R147). -/
theorem endRequeue_move {s : State} (h : s.seq.phase = .awQ) : EngineMove s s.endRequeue := by
  unfold State.endRequeue
  split
  · next ha => exact .noAnswer (.inr (.inr h)) ha
  · next ha => exact .requeueFailed h ha
  · next ha => exact .requeueDone h ha

/-- What the acceptance of a command word can do (R96). -/
inductive Accepted (s : State) : State → Prop where
  | illegal : Accepted s (s.acceptWord.raise .illegal)
  | refused (e : ErrorCode) : Accepted s (s.acceptWord.raise e)
  | buildLut (h : s.status.lutValid = false) : Accepted s (s.acceptWord.toPhase .lutB)
  | reqcap (h : s.cfg.frameCount ≠ 0) :
      Accepted s ((s.acceptWord.reselectChannel.activate.sendRequest (.queueCapture s.ring.capIndex)).toPhase .rqQ)
  | await (h : s.awaitCheck = none) :
      Accepted s (State.sendWait
        { s.acceptConversion with seq := { s.seq with burstLeft := s.cfg.capturesPerFrame.toNat } })
  | convert (slot : Nat) (h : s.convertCheck slot = none) :
      Accepted s { s.acceptConversion with seq := { s.seq with phase := .conv, convSlot := slot, convAdvance := false } }

theorem acceptBuildLut_accepted (s : State) : Accepted s s.acceptBuildLut := by
  unfold State.acceptBuildLut
  split
  · exact .refused .seq
  · next h => exact .buildLut (by simpa using h)

theorem acceptReqcap_accepted (s : State) : Accepted s s.acceptReqcap := by
  unfold State.acceptReqcap
  split
  · exact .refused .config
  · next h =>
    have hr : s.acceptWord.reselectChannel.activate.ring.activeIndex = s.ring.capIndex := by
      unfold State.reselectChannel
      split <;> rfl
    simp only [hr]
    exact .reqcap h

theorem acceptAwait_accepted (s : State) : Accepted s s.acceptAwait := by
  unfold State.acceptAwait
  split
  · next e _ => exact .refused e
  · next h => exact .await h

theorem acceptConvert_accepted (s : State) (slot : Nat) : Accepted s (s.acceptConvert slot) := by
  unfold State.acceptConvert
  split
  · next e _ => exact .refused e
  · next h => exact .convert slot h

/-- What the checks of AWAIT have established when none fails (R148). -/
theorem awaitCheck_none {s : State} (h : s.awaitCheck = none) :
    s.status.lutValid = true ∧ s.cfg.frameCount ≠ 0 ∧ s.cfg.capturesPerFrame ≠ 0 ∧ s.regionLegal = true
      ∧ s.geometryLegal = true := by
  unfold State.awaitCheck at h
  split_ifs at h with h1 h2 h3 h4 h5
  exact ⟨by simpa using h1, h2, h3, by simpa using h4, by simpa using h5⟩

/-- What the checks of CONVERT have established when none fails (R183). -/
theorem convertCheck_none {s : State} {slot : Nat} (h : s.convertCheck slot = none) :
    s.status.lutValid = true ∧ s.cfg.frameCount ≠ 0 ∧ slot < s.cfg.frameCount.toNat ∧ s.regionLegal = true
      ∧ s.geometryLegal = true := by
  unfold State.convertCheck at h
  split_ifs at h with h1 h2 h3 h4 h5
  exact ⟨by simpa using h1, h2, by omega, by simpa using h4, by simpa using h5⟩

/-- What an event can do to the state it is taken from. -/
inductive EventMove (s : State) : Event → State → Prop where
  | engine {t : State} (h : EngineMove s t) : EventMove s .engine t
  | command {t : State} (w : Word) (h : s.seq.phase = .idle) (ha : Accepted s t) : EventMove s (.hostWrite 32 0x00 w) t
  | droppedCommand (w : Word) (h : s.seq.phase ≠ .idle) : EventMove s (.hostWrite 32 0x00 w) s.dropWrite
  | write (offset : Nat) (v : Word) (h : Reg.ofOffset offset ≠ .cmd) :
      EventMove s (.hostWrite 32 offset v) (s.writeReg (Reg.ofOffset offset) v)
  | read (offset : Nat) : EventMove s (.hostRead 32 offset) (s.readReg (Reg.ofOffset offset))
  | readScratch {t : State} (a : Nat) (h : s.hostReadScratchByte a = .next t) : EventMove s (.hostReadScratch a) t
  | readDevbuf (a : Word) : EventMove s (.hostReadDevbuf a) (s.hostReadDevbufByte a)
  | answer (a : DevAnswer) (r : DevRequest) (h : s.chan.outstanding = some r) (hn : s.chan.answer = none) :
      EventMove s (.deviceAnswer a)
        { s with stale := s.staleAfter r a, chan := { s.chan with answer := some a, log := .answered r a :: s.chan.log } }
  | deviceWrite (a : Word) (b : Byte) : EventMove s (.deviceWrite a b) (s.deviceWriteByte a b)
  | reset (down : Bool) (h : down = true ∨ s.deviceIdle = true) : EventMove s (.reset down) s.resetEngine

/-- Only offset 0 names CMD. -/
theorem ofOffset_eq_cmd_iff (offset : Nat) : Reg.ofOffset offset = .cmd ↔ offset = 0 := by
  refine ⟨fun h => ?_, fun h => by rw [h]; rfl⟩
  unfold Reg.ofOffset at h
  split at h
  · split at h <;> first | rfl | exact absurd h nofun
  · unfold windowEntry at h
    split_ifs at h

/-- The decoder answers commands only, never a kernel. -/
theorem decodeCommand_cases {w : Word} {i : Instr} (h : decodeCommand w = .ok i) :
    i = .buildLut ∨ i = .reqcap ∨ i = .await ∨ ∃ slot, i = .convert slot := by
  unfold decodeCommand at h
  split_ifs at h <;> simp only [Except.ok.injEq] at h <;> subst h <;> simp

/-- A kernel's completion is an image or a view. -/
theorem exec_kernel_next {f : PixelFormat} {s t : State} (h : exec f.kernel s = .next t) :
    (usesScratch f s.cfg.bgrInvert = true ∧ s.fits f ∧ t = s.scratchResult f (s.imageOf f))
      ∨ (usesScratch f s.cfg.bgrInvert = false ∧ ∃ fmt channels len, t = s.endAsView fmt channels len) := by
  rw [exec_kernel] at h
  split at h
  · next hs => exact .inl ⟨hs, (endInScratch_eq_next_iff s t f _).1 h⟩
  · next hs =>
    refine .inr ⟨by simpa using hs, ?_⟩
    split at h <;> exact ⟨_, _, _, (Host.Outcome.next.inj h).symm⟩

/-- Everything a turn of the engine can answer. -/
theorem engineTurn_next {s t : State} (h : runTurn s.engineTurn = .next t) : EngineMove s t := by
  unfold State.engineTurn State.running runTurn at h
  cases hp : s.seq.phase <;> rw [hp] at h
  case idle => exact Host.Outcome.next.inj h ▸ .nothing hp
  case conv =>
    rcases exec_kernel_next (f := s.format) h with ⟨hs, hf, rfl⟩ | ⟨hs, fmt, ch, len, rfl⟩
    · exact .image hp hs hf
    · exact .view hp hs fmt ch len
  all_goals
    simp only [exec, execBuildLut, execReqcap, execAwait, hp, Host.Outcome.next.injEq] at h
    subst h
  · exact .build hp
  · exact endReqcap_move hp
  · exact endWait_move hp
  · exact endRequeue_move hp

/-- Everything a word written to CMD can answer. -/
theorem commandTurn_next {s t : State} {w : Word} (h : runTurn (s.commandTurn w) = .next t) :
    (s.seq.phase = .idle ∧ Accepted s t) ∨ (s.seq.phase ≠ .idle ∧ t = s.dropWrite) := by
  unfold State.commandTurn at h
  by_cases hp : s.seq.phase = .idle
  · refine .inl ⟨hp, ?_⟩
    simp only [State.busy, hp, ne_eq, not_true, decide_false, Bool.false_eq_true, if_false] at h
    cases hd : decodeCommand w with
    | error e => rw [hd] at h; exact Host.Outcome.next.inj h ▸ .illegal
    | ok i =>
      rw [hd] at h
      rcases decodeCommand_cases hd with rfl | rfl | rfl | ⟨slot, rfl⟩ <;>
        simp only [runTurn, exec, execBuildLut, execReqcap, execAwait, execConvert, hp, Host.Outcome.next.injEq] at h <;>
        subst h
      · exact acceptBuildLut_accepted s
      · exact acceptReqcap_accepted s
      · exact acceptAwait_accepted s
      · exact acceptConvert_accepted s slot
  · refine .inr ⟨hp, ?_⟩
    simp only [State.busy, hp, ne_eq, not_false_eq_true, decide_true, if_true] at h
    exact (Host.Outcome.next.inj h).symm

/-- Everything an event can answer. -/
theorem eventTurn_next {s t : State} {e : Event} (h : runTurn (s.eventTurn e) = .next t) : EventMove s e t := by
  cases e with
  | engine => exact .engine (engineTurn_next h)
  | hostWrite width offset v =>
    simp only [State.eventTurn, State.hostWriteTurn] at h
    split at h
    · exact absurd h nofun
    · next hw =>
      obtain rfl : width = 32 := by tauto
      split at h
      · next hc =>
        obtain rfl := (ofOffset_eq_cmd_iff offset).1 hc
        rcases commandTurn_next h with ⟨hp, ha⟩ | ⟨hp, rfl⟩
        · exact .command v hp ha
        · exact .droppedCommand v hp
      · next hc => exact Host.Outcome.next.inj h ▸ .write offset v hc
  | hostRead width offset =>
    simp only [State.eventTurn, State.hostReadReg, runTurn] at h
    split at h
    · exact absurd h nofun
    · next hw =>
      obtain rfl : width = 32 := by tauto
      exact Host.Outcome.next.inj h ▸ .read offset
  | hostReadScratch a => exact .readScratch a h
  | hostReadDevbuf a => exact Host.Outcome.next.inj h ▸ .readDevbuf a
  | deviceAnswer a =>
    simp only [State.eventTurn, State.deliverAnswer, runTurn] at h
    split at h
    · next r ho hn => exact Host.Outcome.next.inj h ▸ .answer a r ho hn
    · exact absurd h nofun
  | deviceWrite a b => exact Host.Outcome.next.inj h ▸ .deviceWrite a b
  | reset down =>
    simp only [State.eventTurn, State.takeReset, runTurn] at h
    split at h
    · next hd => exact Host.Outcome.next.inj h ▸ .reset down (by simpa using hd)
    · exact absurd h nofun

/-- A host read of SCRATCH is a racing read, below SCRATCH_CAP (R61, R76). -/
theorem hostReadScratchByte_next {s t : State} {a : Nat} (h : s.hostReadScratchByte a = .next t) :
    a < Config.scratchCap ∧ t = s.replyRacing (s.scratchByte a) (s.otherScratch a) := by
  unfold State.hostReadScratchByte at h
  split at h
  · exact absurd h nofun
  · next hc => exact ⟨by simpa using hc, (Host.Outcome.next.inj h).symm⟩

/-- Everything a step can answer: the engine goes on alone, or the first event happens. -/
theorem step_next {s t : State} (h : step s = .next t) :
    (s.agenda = [] ∧ EngineMove s t)
      ∨ ∃ e rest, s.agenda = e :: rest ∧ EventMove { s with agenda := rest } e t := by
  cases ha : s.agenda with
  | nil => exact .inl ⟨rfl, engineTurn_next (step_of_nil ha ▸ h)⟩
  | cons e rest => exact .inr ⟨e, rest, rfl, eventTurn_next (step_of_cons ha ▸ h)⟩

end Sys2Proof.Machine
end

