-- ==== Sys2Proof/Laws/Ring.lean ====
section
/-! SUPPORT. The ring arithmetic, the slots, the device channel, and when a conversion fits: one lemma per shared
operation. -/

namespace Sys2Proof.Machine

/-- The advance is the addition modulo FRAME_COUNT (R145, R153). -/
theorem advanceIndex_toNat {index : SlotIndex} {fc : BitVec 8} (h : index < fc) :
    (advanceIndex index fc).toNat = (index.toNat + 1) % fc.toNat := by
  have h' : index.toNat < fc.toNat := h
  unfold advanceIndex
  split
  · next h1 => rw [Nat.mod_eq_of_lt h1, BitVec.toNat_ofNat]; omega
  · rw [show index.toNat + 1 = fc.toNat by omega, Nat.mod_self]; rfl

/-- The advance stays below FRAME_COUNT (R24). -/
theorem advanceIndex_lt {index : SlotIndex} {fc : BitVec 8} (h : fc ≠ 0) : advanceIndex index fc < fc := by
  have hf : fc.toNat ≠ 0 := fun e => h (BitVec.eq_of_toNat_eq e)
  change (advanceIndex index fc).toNat < fc.toNat
  unfold advanceIndex
  split
  · rw [BitVec.toNat_ofNat]; omega
  · change 0 < fc.toNat; omega

/-- With no slots the advance gives 0 (R24). -/
@[simp] theorem advanceIndex_zero (index : SlotIndex) : advanceIndex index 0 = 0 := if_neg (by simp)

/-- Channel reselection touches the trace only (R142). -/
theorem reselectChannel_eq (s : State) :
    s.reselectChannel = { s with chan := { s.chan with log := s.reselectChannel.chan.log } } := by
  unfold State.reselectChannel
  split <;> rfl

/-- `frame_size` when there are slots (R63). -/
theorem frameSize_eq {s : State} (h : s.cfg.frameCount ≠ 0) :
    s.frameSize = s.cfg.regionSize.toNat / s.cfg.frameCount.toNat := if_neg h

/-- A slot ends inside the region (R64). -/
theorem slotAddr_add_frameSize_le {s : State} {slot : Nat} (h : slot < s.cfg.frameCount.toNat) :
    s.slotAddr slot + s.frameSize ≤ s.cfg.regionBase.toNat + s.cfg.regionSize.toNat := by
  have hf : s.cfg.frameCount ≠ 0 := fun e => by rw [e] at h; exact absurd h (Nat.not_lt_zero _)
  have hle : (slot + 1) * s.frameSize ≤ s.cfg.regionSize.toNat := by
    rw [frameSize_eq hf]
    exact (Nat.mul_le_mul_right _ h).trans (Nat.mul_div_le _ _)
  rw [Nat.add_mul] at hle
  unfold State.slotAddr
  omega

/-- Slots do not overlap: an address lies in one slot at most (R64). -/
theorem slot_unique {s : State} {i j a : Nat} (hi : s.slotAddr i ≤ a ∧ a < s.slotAddr i + s.frameSize)
    (hj : s.slotAddr j ≤ a ∧ a < s.slotAddr j + s.frameSize) : i = j := by
  unfold State.slotAddr at hi hj
  rcases Nat.lt_trichotomy i j with h | h | h
  · have := Nat.mul_le_mul_right s.frameSize (show i + 1 ≤ j from h)
    rw [Nat.add_mul] at this
    omega
  · exact h
  · have := Nat.mul_le_mul_right s.frameSize (show j + 1 ≤ i from h)
    rw [Nat.add_mul] at this
    omega

/-- What the acceptance checks establish keeps a converting kernel inside both memories (R171, R183). -/
theorem fits_of_legal {s : State} (h : Safety.conversionLegal s) (hc : s.seq.convSlot < s.cfg.frameCount.toNat)
    (hu : usesScratch s.format s.cfg.bgrInvert = true) : s.fits s.format := by
  obtain ⟨-, -, hr, hg, -⟩ := h
  have hs : s.slice + s.frameSize ≤ _ := slotAddr_add_frameSize_le hc
  simp only [State.geometryLegal, hu, Bool.not_true, Bool.false_or, Bool.and_eq_true, decide_eq_true_eq] at hg
  simp only [State.regionLegal, decide_eq_true_eq] at hr
  exact ⟨hg.2, .inr (by omega)⟩

/-- A kernel whose image and input fit, or that writes none, completes. -/
theorem exec_kernel_completes {f : PixelFormat} {s : State}
    (h : usesScratch f s.cfg.bgrInvert = true → s.fits f) : ∃ t, exec f.kernel s = .next t := by
  rw [exec_kernel]
  split
  · next hu => exact ⟨_, endInScratch_of_fits (h hu) _⟩
  · split <;> exact ⟨_, rfl⟩

/-- Byte `3 * p + c` of the image a converting kernel leaves is channel `c` of pixel `p` (R172). -/
theorem read_scratchResult (s : State) (fmt : PixelFormat) (px : Nat → Rgb) {p c : Nat} (hp : p < s.pixelCount)
    (hc : c < 3) :
    Memory.read (s.scratchResult fmt (raster s.pixelCount px)).scratch (3 * p + c) = some ((px p).channel c) :=
  read_raster s.scratch s.pixelCount px hp hc

end Sys2Proof.Machine
end

