-- ==== Sys2Proof/Laws/Tables.lean ====
section
/-! SUPPORT. The entries of the tables BUILD_LUT writes, and the two arithmetic primitives. -/

namespace Sys2Proof.Machine

/-- `tdiv` is Lean's division rounding toward zero. -/
theorem tdiv_eq (a b : Int) : tdiv a b = Int.tdiv a b := by
  unfold tdiv
  split
  · next h => rw [Int.tdiv_eq_ediv_of_nonneg h]
  · next h =>
    have h' : 0 ≤ -a := by omega
    rw [← Int.tdiv_eq_ediv_of_nonneg h', Int.neg_tdiv, Int.neg_neg]

/-- `clamp8` is the value clamped to 0..255. -/
theorem clamp8_toNat (x : Int) : ((clamp8 x).toNat : Int) = max 0 (min x 255) := by
  unfold clamp8
  split
  · simp; omega
  · split
    · simp; omega
    · rw [BitVec.toNat_ofInt]; omega

@[simp] theorem tabulate_getElem {α : Type} (n : Nat) (f : Nat → α) (i : Nat) (h : i < n) :
    (tabulate n f)[i] = f i := by
  simp [tabulate]

theorem yValue_range (c : Nat) : 0 ≤ yValue c ∧ yValue c ≤ 255 := by
  unfold yValue tdiv
  split
  · omega
  · split
    · omega
    · split <;> omega

theorem uvValue_range (c : Nat) : -127 ≤ uvValue c ∧ uvValue c ≤ 127 := by
  unfold uvValue tdiv
  split
  · omega
  · split
    · omega
    · split <;> omega

/-- A number of 16 signed bits survives its storage. -/
theorem toInt_ofInt_of_small {x : Int} (h : -32768 ≤ x ∧ x ≤ 32767) : (BitVec.ofInt 16 x).toInt = x := by
  rw [BitVec.toInt_ofInt, Int.bmod_eq_of_le] <;> omega

/-- `Y[c]` of the built tables is R121's value. -/
@[simp] theorem builtTables_yAt (c : Byte) : builtTables.yAt c = yValue c.toNat := by
  have h := yValue_range c.toNat
  simp only [Tables.yAt, builtTables, tabulate_getElem, BitVec.toNat_ofInt]
  omega

/-- `UV[c]` of the built tables is R122's value. -/
@[simp] theorem builtTables_uvAt (c : Byte) : builtTables.uvAt c = uvValue c.toNat := by
  have h := uvValue_range c.toNat
  simp only [Tables.uvAt, builtTables, tabulate_getElem, BitVec.toInt_ofInt]
  rw [Int.bmod_eq_of_le] <;> omega

theorem coefficientValue_range {a k : Int} (ha : 0 ≤ a ∧ a ≤ 2000) (hk : -127 ≤ k ∧ k ≤ 127) :
    -32768 ≤ coefficientValue a k ∧ coefficientValue a k ≤ 32767 := by
  have h1 : a * k ≤ 2000 * 127 := by nlinarith
  have h2 : -(2000 * 127) ≤ a * k := by nlinarith
  unfold coefficientValue tdiv
  split <;> omega

/-- An entry of a coefficient table is `tdiv(coefficient * k, 1000)`. -/
theorem signedEntry_coefficientTable {a k : Int} (ha : 0 ≤ a ∧ a ≤ 2000) (hk : -127 ≤ k ∧ k ≤ 127) :
    signedEntry (coefficientTable a) k = coefficientValue a k := by
  have h : (k + 127).toNat < 255 ∧ 0 ≤ k + 127 := by omega
  have he : (((k + 127).toNat : Nat) : Int) - 127 = k := by omega
  simp only [signedEntry, h, and_self, dite_true, coefficientTable, tabulate_getElem, he]
  exact toInt_ofInt_of_small (coefficientValue_range ha hk)

theorem builtTables_rv {k : Int} (hk : -127 ≤ k ∧ k ≤ 127) :
    signedEntry builtTables.rv k = coefficientValue 1402 k := signedEntry_coefficientTable (by omega) hk

theorem builtTables_gu {k : Int} (hk : -127 ≤ k ∧ k ≤ 127) :
    signedEntry builtTables.gu k = coefficientValue 344 k := signedEntry_coefficientTable (by omega) hk

theorem builtTables_gv {k : Int} (hk : -127 ≤ k ∧ k ≤ 127) :
    signedEntry builtTables.gv k = coefficientValue 714 k := signedEntry_coefficientTable (by omega) hk

theorem builtTables_bu {k : Int} (hk : -127 ≤ k ∧ k ≤ 127) :
    signedEntry builtTables.bu k = coefficientValue 1772 k := signedEntry_coefficientTable (by omega) hk

end Sys2Proof.Machine
end

