-- ==== Sys2Proof/Tests/Slice0.lean ====
section
/-! SUPPORT. Tests. Every expected value is written out from the spec: the encodings of 30_encoding.md, the tables and
examples of the kernels' rules, and the vectors of 95_test_vectors.md, named in each docstring. The last part holds a
witness for the hypotheses of every statement that has any. -/

namespace Sys2Proof.Tests

open Sys2Proof.Machine Sys2Proof.Safety Sys2Proof.Claims

/-! ### States to test in -/

/-- An engine after BUILD_LUT with the region of 95_test_vectors.md 2.5 and format OTHER, 1 x 1. -/
def booted : State :=
  { State.reset with
    status := { State.reset.status with lutValid := true }
    lut := builtTables
    cfg := { State.reset.cfg with
      pixfmt := 7, width := 1, height := 1, frameCount := 2, regionBase := 0x1000, regionSize := 0x80 } }

/-- The events to come. -/
def facing (events : List Event) (s : State) : State := { s with agenda := events }

/-- Format and geometry set, and `bytes` in slot 0. -/
def holding (fmt : BitVec 3) (w h : BitVec 16) (bytes : List Byte) : State :=
  { booted with
    cfg := { booted.cfg with pixfmt := fmt, width := w, height := h }
    devbuf := Memory.writeBytes [] 0x1000 bytes }

/-- A conversion of slot `slot` in progress. -/
def converting (slot : Nat) (s : State) : State :=
  { s with seq := { s.seq with phase := .conv, convSlot := slot } }

/-- A request outstanding in phase `p`, with `left` waits left. -/
def awaiting (p : Phase) (r : DevRequest) (a : Option DevAnswer) (left : Nat) (s : State) : State :=
  { s with
    seq := { s.seq with phase := p, burstLeft := left }
    chan := { outstanding := some r, answer := a, log := [.request r] } }

/-- The next state, if there is one. -/
def nextOf : Host.Outcome State Fault Refusal → Option State
  | .next s => some s
  | _ => none

/-- STATUS after an outcome. -/
def statusAfter (o : Host.Outcome State Fault Refusal) : Option Word := (nextOf o).map State.statusWord

/-- The three ring indices after an outcome, CAP, SYNC, ACTIVE. -/
def ringAfter (o : Host.Outcome State Fault Refusal) : Option (SlotIndex × SlotIndex × SlotIndex) :=
  (nextOf o).map fun s => (s.ring.capIndex, s.ring.syncIndex, s.ring.activeIndex)

/-- The output descriptor after an outcome. -/
def outAfter (o : Host.Outcome State Fault Refusal) : Option OutDescriptor := (nextOf o).map State.out

/-! ### Well-formedness: the one check, SLOT < 256 (R100) -/

theorem test_wf_refuses_slot_256 : (Instr.convert 256).wf = false := by decide
theorem test_wf_allows_slot_255 : (Instr.convert 255).wf = true := by decide

/-! ### Decoding: each word bit by bit, Z1, SLOT, Z0, OP (R91), each tag as R98 has it -/

theorem test_decode_build_lut : decodeCommand 0b0000000000000000_00000000_0000_0001 = .ok .buildLut := by decide
theorem test_decode_reqcap : decodeCommand 0b0000000000000000_00000000_0000_0010 = .ok .reqcap := by decide
theorem test_decode_await : decodeCommand 0b0000000000000000_00000000_0000_0011 = .ok .await := by decide
theorem test_decode_convert_165 :
    decodeCommand 0b0000000000000000_10100101_0000_0100 = .ok (.convert 165) := by decide
theorem test_decode_z0 : decodeCommand 0b0000000000000000_00000000_0001_0011 = .error .z0NotZero := by decide
theorem test_decode_z1 : decodeCommand 0b1000000000000000_00000000_0000_0100 = .error .z1NotZero := by decide
theorem test_decode_slot : decodeCommand 0b0000000000000000_00000001_0000_0011 = .error .slotNotZero := by decide
theorem test_decode_op : decodeCommand 0b0000000000000000_00000000_0000_0101 = .error .badOperation := by decide
theorem test_decode_yuv420p : decode (.tag 0b000) = .ok .kernelYuv420p := by decide
theorem test_decode_yuv422p : decode (.tag 0b001) = .ok .kernelYuv422p := by decide
theorem test_decode_yuyv : decode (.tag 0b010) = .ok .kernelYuyv := by decide
theorem test_decode_rgb555 : decode (.tag 0b011) = .ok .kernelRgb555 := by decide
theorem test_decode_rgb565 : decode (.tag 0b100) = .ok .kernelRgb565 := by decide
theorem test_decode_rgb24 : decode (.tag 0b101) = .ok .kernelRgb24 := by decide
theorem test_decode_grey : decode (.tag 0b110) = .ok .kernelGrey := by decide
theorem test_decode_other : decode (.tag 0b111) = .ok .kernelOther := by decide
theorem test_encode_convert : encode (.convert 1) = .command 0x00000104 := by decide
theorem test_tableWord_command : decodeTableWord 32 0x0000FF04 = some (.convert 255) := by decide
theorem test_tableWord_tag : decodeTableWord 8 5 = some .kernelRgb24 := by decide

/-! ### An instruction placed after reset runs in the next step (V10, V31) -/

theorem test_fetch_build_lut : statusAfter (step (State.reset.withFetchWord 32 1)) = some 0x00000001 := by decide
theorem test_fetch_reqcap : statusAfter (step (State.reset.withFetchWord 32 2)) = some 0x00000302 := by decide
theorem test_fetch_await : statusAfter (step (State.reset.withFetchWord 32 3)) = some 0x00000502 := by decide
theorem test_fetch_convert : statusAfter (step (State.reset.withFetchWord 32 4)) = some 0x00000502 := by decide
theorem test_fetch_kernels : ∀ tag < 8, (nextOf (step (State.reset.withFetchWord 8 tag))).isSome = true := by decide

/-! ### The tables (V2, V3, V4) and the pixel formula (V6) -/

theorem test_luma_table : builtTables.yAt 17 = 1 ∧ builtTables.yAt 234 = 253 ∧ builtTables.yAt 235 = 255 := by
  decide +kernel

theorem test_chroma_table : builtTables.uvAt 17 = -125 ∧ builtTables.uvAt 90 = -43 ∧ builtTables.uvAt 239 = 125 := by
  decide +kernel

theorem test_coefficient_tables :
    signedEntry builtTables.rv (-88) = -123 ∧ signedEntry builtTables.gu (-43) = -14
      ∧ signedEntry builtTables.gv (-1) = 0 ∧ signedEntry builtTables.bu (-127) = -225 := by decide +kernel

theorem test_pixel_formula :
    yuv2rgb builtTables 75 (-43) 127 = { r := 253, g := 0, b := 0 }
      ∧ yuv2rgb builtTables 255 127 127 = { r := 255, g := 122, b := 255 } := by decide +kernel

/-! ### The commands -/

/-- V1: the build step ends with DONE and LUT_VALID; a second BUILD_LUT with ERR_SEQ. -/
theorem test_build_lut :
    statusAfter (exec .buildLut (State.reset.toPhase .lutB)) = some 0x00000006
      ∧ statusAfter (exec .buildLut booted) = some 0x00000506 := by decide

/-- V8: the index wraps at FRAME_COUNT; V9: a FAIL moves nothing. -/
theorem test_reqcap_answers :
    ringAfter (exec .reqcap (awaiting .rqQ (.queueCapture 1) (some .ok) 0
        { booted with ring := { capIndex := 1, syncIndex := 0, activeIndex := 1 } })) = some (0, 0, 1)
      ∧ statusAfter (exec .reqcap (awaiting .rqQ (.queueCapture 1) (some .fail) 0 booted)) = some 0x00000106 := by
  decide

/-- V11: a shared device gets SELECT_CHANNEL first. -/
theorem test_reqcap_shared :
    (nextOf (exec .reqcap { booted with cfg := { booted.cfg with shared := true, channel := 5 } })).map
        (fun s => s.chan.log) = some [.request (.queueCapture 0), .request (.selectChannel 5)] := by decide

/-- V12: the final wait advances SYNC_INDEX and starts the conversion of the old one. -/
theorem test_await_final_wait :
    (nextOf (exec .await (awaiting .awW (.waitSync 0) (some .ok) 1 booted))).map
        (fun s => (s.ring.syncIndex, s.seq.phase, s.seq.convSlot)) = some (1, .conv, 0) := by decide

/-- V14: a failed burst re-queue ends with ERR_QUEUE, nothing advanced. -/
theorem test_await_requeue_fails :
    statusAfter (exec .await (awaiting .awQ (.queueCapture 0) (some .fail) 2 booted)) = some 0x00000106
      ∧ ringAfter (exec .await (awaiting .awQ (.queueCapture 0) (some .fail) 2 booted)) = some (0, 0, 0) := by decide

/-- V32: slot = FC is refused with ERR_CONFIG. -/
theorem test_convert_slot_bound : statusAfter (exec (.convert 2) booted) = some 0x00000306 := by decide

/-! ### The kernels -/

/-- V20. -/
theorem test_yuv420p :
    let s := converting 0 (holding 0 2 2 [0x51, 0x91, 0x29, 0x80, 0x5A, 0xF0])
    raster s.pixelCount s.yuv420pPixel =
      [0xFD, 0x00, 0x00, 0xFF, 0x4A, 0x4A, 0xCF, 0x00, 0x00, 0xFF, 0x36, 0x36] := by decide +kernel

/-- V21. -/
theorem test_yuv422p :
    let s := converting 0 (holding 1 4 2
      [0x10, 0x80, 0xEB, 0xFF, 0x00, 0x11, 0xEA, 0x64, 0x80, 0x36, 0xF0, 0x10, 0x80, 0x22, 0x6E, 0xFF])
    raster s.pixelCount s.yuv422pPixel =
      [0x00, 0x00, 0x00, 0x82, 0x82, 0x82, 0x6B, 0xFF, 0x6C, 0x6B, 0xFF, 0x6C,
       0x00, 0x00, 0xE1, 0x00, 0x00, 0xE2, 0xFF, 0xCE, 0x1C, 0xFF, 0x32, 0x00] := by decide +kernel

/-- V23, the first two groups and the last. -/
theorem test_yuyv :
    let s := converting 0 (holding 2 2 3 [0x51, 0x5A, 0x91, 0xF0, 0xEB, 0x80, 0x10, 0x80, 0x29, 0xF0, 0xC8, 0x6E])
    raster s.pixelCount s.yuyvPixel =
      [0xFF, 0x05, 0x05, 0xFF, 0x45, 0x45, 0xEB, 0xEB, 0xEB, 0x10, 0x10, 0x10,
       0x0D, 0x0C, 0xFF, 0xAC, 0xAB, 0xFF] := by decide +kernel

/-- V27. -/
theorem test_rgb555 :
    let s := converting 0 (holding 3 5 1 [0x00, 0x7C, 0xE0, 0x03, 0x1F, 0x00, 0x00, 0x80, 0x34, 0x12])
    raster s.pixelCount (fun i => unpack555 (s.pixelWord i)) =
      [0xF8, 0x00, 0x00, 0x00, 0xF8, 0x00, 0x00, 0x00, 0xF8, 0x00, 0x00, 0x00, 0x20, 0x88, 0xA0] := by decide +kernel

/-- V26. -/
theorem test_rgb565 :
    let s := converting 0 (holding 4 4 1 [0x00, 0xF8, 0xE0, 0x07, 0x21, 0x08, 0xCD, 0xAB])
    raster s.pixelCount (fun i => unpack565 (s.pixelWord i)) =
      [0xF8, 0x00, 0x00, 0x00, 0xFC, 0x00, 0x08, 0x04, 0x08, 0xA8, 0x78, 0x68] := by decide +kernel

/-- V28. -/
theorem test_rgb24_swap :
    let s := converting 0 (holding 5 2 1 [0x0A, 0x14, 0x1E, 0x01, 0x02, 0x03])
    raster s.pixelCount s.swappedPixel = [0x1E, 0x14, 0x0A, 0x03, 0x02, 0x01] := by decide +kernel

/-- V29. -/
theorem test_rgb24_view :
    outAfter (exec .kernelRgb24 (converting 1 (holding 5 2 1 []))) =
      some { dim := 0x00010002, info := 0x00050003, addr := 0x00001040, len := 6 } := by decide

/-- V30. -/
theorem test_grey :
    outAfter (exec .kernelGrey (converting 1 (holding 6 4 2 []))) =
      some { dim := 0x00020004, info := 0x00060001, addr := 0x00001040, len := 8 } := by decide

/-- V30. -/
theorem test_other :
    outAfter (exec .kernelOther (converting 1 (holding 7 4 2 []))) =
      some { dim := 0x00020004, info := 0x00070000, addr := 0x00001040, len := 0x40 } := by decide

/-! ### Host accesses -/

/-- V17: a write to FRAME_COUNT clears the indices. -/
theorem test_frame_count_clears :
    ringAfter (step (facing [.hostWrite 32 0x18 4]
      { booted with ring := { capIndex := 2, syncIndex := 0, activeIndex := 2 } })) = some (0, 0, 0) := by decide

/-- V18: a configuration write while BUSY is dropped and sets OVR. -/
theorem test_dropped_write :
    statusAfter (step (facing [.hostWrite 32 0x10 8] (awaiting .awW (.waitSync 0) none 1 booted)))
      = some 0x00000015 := by decide

/-- While AWAIT waits no kernel has written, so a SCRATCH read is exact (R76). -/
theorem test_scratch_exact_while_waiting :
    let s := { awaiting .awW (.waitSync 0) none 1 booted with scratch := [(2, 9)] }
    (s.replyRacing (s.scratchByte 2) (s.otherScratch 2)).host.data = 9 := by decide

/-- A device write leaves an old value; the OK answer to WAIT_SYNC of its slot, and only that, settles it (R75). -/
theorem test_stale_until_synced :
    let after (slot : SlotIndex) (a : DevAnswer) := (nextOf (Host.Core.run core 2 (facing [.deviceWrite 0x1040 7, .deviceAnswer a]
        (awaiting .awW (.waitSync slot) none 1 (holding 7 1 1 (List.replicate 0x80 5)))))).map State.stale
    after 1 .ok = some [] ∧ after 0 .ok = some [(0x1040, 5)] ∧ after 1 .fail = some [(0x1040, 5)] := by decide +kernel

/-- V4: RV[-1] through the window. -/
theorem test_window_read :
    (nextOf (step (facing [.hostRead 32 0x19F8] booted))).map (fun s => s.host.data) = some 0xFFFFFFFF := by
  decide +kernel

/-! ### Witnesses: for every statement with hypotheses, states and operands that meet them all together

MAX_PIXELS is open (log 13): only a frame of one pixel is known to fit SCRATCH, so these take 1 x 1 frames. -/

theorem one_le_maxPixels : 1 ≤ Config.maxPixels := Nat.succ_le_succ (Nat.zero_le _)

/-- Format `fmt`, 1 x 1, in slot 0, a conversion of it in progress. -/
def onePixel (fmt : BitVec 3) : State := converting 0 (holding fmt 1 1 [0x34, 0x12, 0x56, 0x78])

/-- SCRATCH byte 2 holds `new`, and the host may still see it as `old`. -/
def seeing (old new : Byte) (s : State) : State :=
  { s with scratch := [(2, new)], host := { s.host with olderScratch := [[(2, old)]] } }

/-- The same with every byte 128. -/
def neutralPixel : State := converting 0 (holding 0 1 1 [128, 128, 128, 128])

theorem needIn_one_le (f : PixelFormat) : needIn f 1 ≤ 3 := by cases f <;> decide

theorem onePixel_fits (f : PixelFormat) (fmt : BitVec 3) : (onePixel fmt).fits f :=
  ⟨one_le_maxPixels, .inr (show 0x1000 + 0 * _ + needIn f 1 ≤ 2 ^ 32 by have := needIn_one_le f; omega)⟩

theorem neutralPixel_fits (f : PixelFormat) : neutralPixel.fits f :=
  ⟨one_le_maxPixels, .inr (show 0x1000 + 0 * _ + needIn f 1 ≤ 2 ^ 32 by have := needIn_one_le f; omega)⟩

theorem test_witness_DecodeOfEncodeIsIdentity : (Instr.convert 0).wf = true ∧ (Instr.convert 255).wf = true := by decide

theorem test_witness_EncodeOfDecodeIsIdentity :
    decode (.command 0x0000FF04) = .ok (.convert 255) ∧ decode (.tag 7) = .ok .kernelOther := by decide

theorem test_witness_DecoderFollowsSummary :
    (0x0000FF04 : Word) &&& 0xFFFF00FF = 0x00000004
      ∧ (0x00010004 : Word) ≠ 1 ∧ (0x00010004 : Word) ≠ 2 ∧ (0x00010004 : Word) ≠ 3
      ∧ (0x00010004 : Word) &&& 0xFFFF00FF ≠ 0x00000004 := by decide

theorem test_witness_StepRunsWrittenCommand :
    (facing [.hostWrite 32 0x00 0x104] booted).agenda = .hostWrite 32 0x00 0x104 :: []
      ∧ (facing [.hostWrite 32 0x00 0x104] booted).seq.phase = .idle
      ∧ decodeCommand 0x104 = .ok (.convert 1) := by decide

theorem test_witness_StepRunsWhatThePhaseEnables :
    ∀ p ∈ [Phase.idle, .lutB, .rqQ, .awW, .awQ, .conv],
      (booted.toPhase p).agenda = [] ∧ (facing [.engine] (booted.toPhase p)).agenda = .engine :: []
        ∧ (booted.toPhase p).seq.phase = p ∧ decode (.tag (booted.toPhase p).cfg.pixfmt) = .ok .kernelOther := by
  decide

theorem test_witness_IllegalWordEndsAtOnce :
    ((0x00000000 : Word).extractLsb' 0 4 = 0) ∧ 5 ≤ ((0x00000005 : Word).extractLsb' 0 4).toNat
      ∧ (0x00000014 : Word).extractLsb' 4 4 ≠ 0 ∧ (0x00010001 : Word).extractLsb' 16 16 ≠ 0
      ∧ ((0x00000101 : Word).extractLsb' 8 8 ≠ 0 ∧ (0x00000101 : Word).extractLsb' 0 4 ≠ 4)
      ∧ (facing [.hostWrite 32 0x00 0x14] booted).seq.phase = .idle
      ∧ ¬ ((0x00000104 : Word).extractLsb' 0 4 = 0 ∨ 5 ≤ ((0x00000104 : Word).extractLsb' 0 4).toNat
        ∨ (0x00000104 : Word).extractLsb' 4 4 ≠ 0 ∨ (0x00000104 : Word).extractLsb' 16 16 ≠ 0
        ∨ ((0x00000104 : Word).extractLsb' 8 8 ≠ 0 ∧ (0x00000104 : Word).extractLsb' 0 4 ≠ 4)) := by decide

theorem test_witness_WritesWhileBusyAreDropped :
    ∀ offset ∈ [0x00, 0x28, 0x04],
      (facing [.hostWrite 32 offset 0x10] (booted.toPhase .lutB)).agenda = .hostWrite 32 offset 0x10 :: []
        ∧ (facing [.hostWrite 32 offset 0x10] (booted.toPhase .lutB)).seq.phase ≠ .idle := by decide

theorem test_witness_StatusWriteClearsOvrOnly :
    (facing [.hostWrite 32 0x04 0x10] booted.dropWrite).agenda = .hostWrite 32 0x04 0x10 :: [] := by decide

theorem test_witness_ConfigurationWritesStoreFields :
    ∀ offset ∈ [0x08, 0x0C, 0x10, 0x14, 0x18, 0x1C, 0x20, 0x24, 0x28],
      (facing [.hostWrite 32 offset 0xFFFFFFFF] booted).agenda = .hostWrite 32 offset 0xFFFFFFFF :: []
        ∧ (facing [.hostWrite 32 offset 0xFFFFFFFF] booted).seq.phase = .idle := by decide

theorem test_witness_StatusReadReturnsFlags : (facing [.hostRead 32 0x04] booted).agenda = .hostRead 32 0x04 :: [] := by
  decide

theorem test_witness_RegisterReadsReturnFields :
    (facing [.hostRead 32 0x08] booted).agenda = .hostRead 32 0x08 :: []
      ∧ (0 : Word).getLsbD 0 = booted.cfg.shared ∧ (0 : Word).getLsbD 1 = booted.cfg.bgrInvert
      ∧ (0 : Word).getLsbD 2 = booted.cfg.strict ∧ (0 : Word).extractLsb' 3 29 = 0
      ∧ (7 : Word).toNat = booted.cfg.pixfmt.toNat ∧ (1 : Word).toNat = booted.cfg.width.toNat
      ∧ (1 : Word).toNat = booted.cfg.height.toNat ∧ (2 : Word).toNat = booted.cfg.frameCount.toNat
      ∧ (1 : Word).toNat = booted.cfg.capturesPerFrame.toNat ∧ (0 : Word).toNat = booted.cfg.channel.toNat
      ∧ (0 : Word).toNat = booted.ring.capIndex.toNat ∧ (0 : Word).toNat = booted.ring.syncIndex.toNat
      ∧ (0 : Word).toNat = booted.ring.activeIndex.toNat := by decide

theorem test_witness_UndefinedAndReadOnlyAccesses :
    (facing [.hostRead 8 0x04] booted).agenda = .hostRead 8 0x04 :: []
      ∧ (facing [.hostWrite 32 0x06 1] booted).agenda = .hostWrite 32 0x06 1 :: [] ∧ 0x06 % 4 ≠ 0
      ∧ (∀ offset ∈ [0x48, 0xFFC, 0x1BFC, 0x1FFC, 0x23FC, 0x27FC],
          offset % 4 = 0 ∧ (facing [.hostRead 32 offset] booted).agenda = .hostRead 32 offset :: [])
      ∧ (∀ offset ∈ [0x2C, 0x44, 0x1000, 0x27FC],
          offset % 4 = 0 ∧ (facing [.hostWrite 32 offset 1] booted).agenda = .hostWrite 32 offset 1 :: []) := by decide

/-- Each window at its first and its last entry (V2, V3, V4). -/
theorem test_witness_WindowReadsReturnEntries :
    booted.status.lutValid = true
      ∧ (((0x00 : Word).toNat : Int) = booted.lut.yAt 0 ∧ ((0xFF : Word).toNat : Int) = booted.lut.yAt 255)
      ∧ ((0xFFFFFF81 : Word).toInt = booted.lut.uvAt 0 ∧ (0x7F : Word).toInt = booted.lut.uvAt 255)
      ∧ ((0xFFFFFF4E : Word).toInt = signedEntry booted.lut.rv (-127) ∧ (0xB2 : Word).toInt = signedEntry booted.lut.rv 127)
      ∧ ((0xFFFFFFD5 : Word).toInt = signedEntry booted.lut.gu (-127) ∧ (0x2B : Word).toInt = signedEntry booted.lut.gu 127)
      ∧ ((0xFFFFFFA6 : Word).toInt = signedEntry booted.lut.gv (-127) ∧ (0x5A : Word).toInt = signedEntry booted.lut.gv 127)
      ∧ ((0xFFFFFF1F : Word).toInt = signedEntry booted.lut.bu (-127) ∧ (0xE1 : Word).toInt = signedEntry booted.lut.bu 127)
      ∧ (facing [.hostRead 32 0x1BF8] booted).agenda = .hostRead 32 0x1BF8 :: [] := by decide +kernel

theorem test_witness_WindowReadsBeforeBuildAreDraws :
    ∀ offset ∈ [0x1000, 0x1BF8, 0x27F8],
      State.reset.status.lutValid = false ∧ (facing [.hostRead 32 offset] State.reset).agenda = .hostRead 32 offset :: []
        ∧ offset % 4 = 0 ∧ 0x1000 ≤ offset ∧ offset ≤ 0x27F8 ∧ offset ≠ 0x1BFC ∧ offset ≠ 0x1FFC ∧ offset ≠ 0x23FC := by
  decide

theorem test_witness_ScratchReadsAreExactAfterDone :
    (∃ s : State, ∃ a rest, s.agenda = .hostRead 32 0x04 :: .hostReadScratch a :: rest ∧ s.status.done = true
        ∧ a < Config.scratchCap)
      ∧ (∃ s : State, ∃ a rest, s.agenda = .hostRead 32 0x04 :: .hostReadScratch a :: rest ∧ s.status.done = true
        ∧ Config.scratchCap ≤ a) :=
  ⟨⟨facing [.hostRead 32 0x04, .hostReadScratch 2] booted.finish, 2, [], rfl, rfl,
      by have := one_le_maxPixels; unfold Config.scratchCap; omega⟩,
    ⟨facing [.hostRead 32 0x04, .hostReadScratch Config.scratchCap] booted.finish, _, [], rfl, rfl, Nat.le_refl _⟩⟩

/-- Booted, format RGB565, 1 x 1: both conversion commands are accepted. -/
def bootedRgb565 : State := { booted with cfg := { booted.cfg with pixfmt := 4 } }

theorem bootedRgb565_geometry : bootedRgb565.geometryLegal = true := by
  rw [State.geometryLegal, Bool.and_eq_true, Bool.and_eq_true]
  refine ⟨⟨by decide, by decide⟩, ?_⟩
  rw [Bool.or_eq_true]
  exact .inr (decide_eq_true one_le_maxPixels)

/-- A read of a byte that may be 7, 9 or new; a conversion about to leave it; a phase without one; a step that keeps. -/
theorem test_witness_ScratchReadsRaceUntilDone :
    (∃ s : State, ∃ a rest, s.agenda = .hostReadScratch a :: rest ∧ a < Config.scratchCap ∧ 1 < (scratchViews s a).length)
      ∧ (∃ s t : State, s.seq.phase = .conv ∧ s.status.done = false ∧ usesScratch s.format s.cfg.bgrInvert = true
        ∧ exec s.format.kernel s = .next t ∧ 2 < 3 * (s.cfg.width.toNat * s.cfg.height.toNat)
        ∧ 3 * (s.cfg.width.toNat * s.cfg.height.toNat) ≤ 3)
      ∧ booted.seq.phase ≠ .conv
      ∧ (∃ s t : State, step s = .next t ∧ (∀ d rest, s.agenda ≠ .reset d :: rest)
        ∧ (s.status.done = true → ∀ rest, s.agenda ≠ .hostRead 32 0x04 :: rest) ∧ s.host.olderScratch ≠ []) := by
  refine ⟨⟨facing [.hostReadScratch 2] (seeing 7 9 (onePixel 4)), 2, [], rfl, ?_, by decide +kernel⟩,
    ⟨onePixel 4, _, rfl, rfl, rfl, show (onePixel 4).runRgb565 = _ from endInScratch_of_fits (onePixel_fits .rgb565 4) _,
      by decide, by decide⟩, by decide,
    ⟨facing [.hostRead 32 0x04] (seeing 7 9 booted), _, rfl, nofun, nofun, nofun⟩⟩
  have := one_le_maxPixels
  unfold Config.scratchCap
  omega

/-- A device write; a read of a byte that races; the first and the last byte of slot 1 read after its sync. -/
theorem test_witness_DevbufReadsReturnTheLatestWrite :
    (facing [.deviceWrite 0xFFFFFFFF 7] booted).agenda = .deviceWrite 0xFFFFFFFF 7 :: []
      ∧ (∃ s : State, s.agenda = .hostReadDevbuf 0xFFFFFFFF :: [] ∧ ((0xFFFFFFFF : Word).toNat, (9 : Byte)) ∈ s.stale)
      ∧ ∀ c : Word, c = 0x1040 ∨ c = 0x107F →
        let s := facing [.deviceWrite 0x1040 7, .deviceAnswer .ok, .hostReadDevbuf c] (awaiting .awW (.waitSync 1) none 1 booted)
        s.agenda = .deviceWrite 0x1040 7 :: .deviceAnswer .ok :: .hostReadDevbuf c :: []
          ∧ s.chan.outstanding = some (.waitSync 1) ∧ s.chan.answer = none
          ∧ s.slotAddr 1 ≤ c.toNat ∧ c.toNat < s.slotAddr 1 + s.frameSize := by
  refine ⟨rfl, ⟨{ facing [.hostReadDevbuf 0xFFFFFFFF] booted with stale := [(0xFFFFFFFF, 9)] }, rfl, .head _⟩, fun c hc => ⟨rfl, rfl, rfl, ?_⟩⟩
  obtain rfl | rfl := hc
  · exact ⟨show booted.slotAddr 1 ≤ 0x1040 by decide, show 0x1040 < booted.slotAddr 1 + booted.frameSize by decide⟩
  · exact ⟨show booted.slotAddr 1 ≤ 0x107F by decide, show 0x107F < booted.slotAddr 1 + booted.frameSize by decide⟩

theorem test_witness_BuildLutAcceptance :
    (State.reset.seq.phase = .idle ∧ State.reset.status.lutValid = false)
      ∧ (booted.seq.phase = .idle ∧ booted.status.lutValid = true) := by decide

theorem test_witness_BuildLutWritesTables :
    (State.reset.toPhase .lutB).seq.phase = .lutB ∧ (16 : Byte).toNat ≤ 16 ∧ 235 ≤ (235 : Byte).toNat
      ∧ 17 ≤ (17 : Byte).toNat ∧ (234 : Byte).toNat ≤ 234 ∧ 240 ≤ (240 : Byte).toNat ∧ (239 : Byte).toNat ≤ 239
      ∧ (239 : Byte).toNat = 256 - (17 : Byte).toNat := by decide

theorem test_witness_ReqcapAcceptance :
    (State.reset.seq.phase = .idle ∧ State.reset.cfg.frameCount = 0)
      ∧ (booted.seq.phase = .idle ∧ booted.cfg.frameCount ≠ 0) := by decide

/-- REQCAP answered OK with CAP_INDEX the last slot. -/
theorem test_witness_ReqcapOkAdvancesCapIndex :
    let s := awaiting .rqQ (.queueCapture 1) (some .ok) 0
      { booted with ring := { capIndex := 1, syncIndex := 0, activeIndex := 1 } }
    s.seq.phase = .rqQ ∧ s.chan.answer = some .ok ∧ s.ring.capIndex < s.cfg.frameCount := by decide

theorem test_witness_ReqcapFailLeavesIndices :
    ∀ a ∈ [some DevAnswer.fail, none],
      (awaiting .rqQ (.queueCapture 0) a 0 booted).seq.phase = .rqQ
        ∧ (awaiting .rqQ (.queueCapture 0) a 0 booted).chan.answer = a := by decide

/-- The two accepted acceptances, and a state for each way to be refused. -/
theorem test_witness_AwaitAcceptance_ConvertAcceptance :
    (State.reset.seq.phase = .idle ∧ State.reset.status.lutValid = false)
      ∧ (booted.status.lutValid = true ∧ ¬ geometryOfR171 { booted with cfg := { booted.cfg with width := 0 } }
          ∧ ¬ regionOfR233 { booted with cfg := { booted.cfg with regionBase := 0xFFFFFF81 } }
          ∧ booted.cfg.frameCount.toNat ≤ 2)
      ∧ (booted.seq.phase = .idle ∧ booted.cfg.frameCount ≠ 0 ∧ booted.cfg.capturesPerFrame ≠ 0 ∧ regionOfR233 booted
          ∧ geometryOfR171 booted ∧ 1 < booted.cfg.frameCount.toNat) :=
  ⟨by decide, ⟨rfl, fun h => absurd h.1 (by decide), by unfold regionOfR233; decide, by decide⟩,
    ⟨rfl, by decide, by decide, by unfold regionOfR233; decide, ⟨by decide, by decide⟩, by decide⟩⟩

/-- A converting format: RGB565, 1 x 1. -/
theorem test_witness_AwaitAcceptance_converting :
    geometryOfR171 { booted with cfg := { booted.cfg with pixfmt := 4 } } :=
  ⟨by decide, by decide, by decide, one_le_maxPixels⟩

theorem test_witness_AwaitWaitAnsweredOk :
    ∀ left ∈ [1, 2],
      let s := awaiting .awW (.waitSync 1) (some .ok) left
        { booted with ring := { capIndex := 0, syncIndex := 1, activeIndex := 1 } }
      s.seq.phase = .awW ∧ s.chan.answer = some .ok ∧ s.seq.burstLeft = left ∧ s.ring.syncIndex < s.cfg.frameCount := by
  decide

theorem test_witness_AwaitRequeueAnsweredOk :
    (awaiting .awQ (.queueCapture 0) (some .ok) 1 booted).seq.phase = .awQ
      ∧ (awaiting .awQ (.queueCapture 0) (some .ok) 1 booted).chan.answer = some .ok := by decide

theorem test_witness_AwaitFailuresLeaveEverything :
    (awaiting .awW (.waitSync 0) (some .fail) 1 booted).chan.answer = some .fail
      ∧ (awaiting .awW (.waitSync 0) (some .fail) 1 booted).seq.phase = .awW
      ∧ (awaiting .awQ (.queueCapture 0) (some .fail) 1 booted).chan.answer = some .fail
      ∧ (awaiting .awQ (.queueCapture 0) (some .fail) 1 booted).seq.phase = .awQ := by decide

theorem test_witness_AwaitHangsWithoutAnswer :
    (awaiting .awW (.waitSync 0) none 1 booted).seq.phase = .awW
      ∧ (awaiting .awW (.waitSync 0) none 1 booted).chan.answer = none := by decide

/-- A burst of one wait and a burst of three (V13). -/
theorem test_witness_AwaitBurstRunsExactlyItsWaits :
    ∀ m ∈ [1, 3],
      let s := facing (okAnswers (2 * m - 1)) (awaiting .awW (.waitSync 0) none m booted)
      1 ≤ m ∧ s.seq.phase = .awW ∧ s.seq.burstLeft = m ∧ s.chan.outstanding = some (.waitSync s.ring.syncIndex)
        ∧ s.chan.answer = none ∧ s.ring.syncIndex < s.cfg.frameCount ∧ s.agenda = okAnswers (2 * m - 1) ++ [] := by
  decide

/-- What acceptance leaves: a converting format in an AWAIT, and a view in a CONVERT. -/
theorem test_witness_ConversionStepCompletes :
    (∃ (s : State) (i : Instr), s.seq.phase = .conv ∧ conversionLegal s ∧ s.seq.convSlot < s.cfg.frameCount.toNat
        ∧ decode (.tag s.cfg.pixfmt) = .ok i ∧ s.seq.convAdvance = true)
      ∧ (∃ (s : State) (i : Instr), s.seq.phase = .conv ∧ conversionLegal s ∧ s.seq.convSlot < s.cfg.frameCount.toNat
        ∧ decode (.tag s.cfg.pixfmt) = .ok i ∧ s.seq.convAdvance = false) :=
  ⟨⟨{ onePixel 4 with seq := { (onePixel 4).seq with convAdvance := true } }, _, rfl,
      ⟨rfl, by decide, by decide, bootedRgb565_geometry, rfl⟩, by decide, rfl, rfl⟩,
    ⟨converting 1 (holding 7 1 1 []), _, rfl, ⟨rfl, by decide, by decide, by decide, rfl⟩, by decide, rfl, rfl⟩⟩

theorem test_witness_ForeignPhaseDropsCommand :
    (booted.toPhase .conv).seq.phase ∈ [Phase.rqQ, .awW, .awQ, .conv]
      ∧ (booted.toPhase .lutB).seq.phase ∈ [Phase.lutB, .awW, .awQ, .conv]
      ∧ (booted.toPhase .rqQ).seq.phase ∈ [Phase.lutB, .rqQ]
      ∧ ((booted.toPhase .conv).seq.phase = .conv ∧ (booted.toPhase .conv).seq.convAdvance = false)
      ∧ (booted.toPhase .awQ).seq.phase ∈ [Phase.lutB, .rqQ, .awW, .awQ]
      ∧ ((booted.startAwaitedConversion).seq.phase = .conv ∧ (booted.startAwaitedConversion).seq.convAdvance = true) := by
  decide

/-- One pixel fits for every converting kernel, and its pixel is 0 (group 0, luma 0). -/
theorem test_witness_ConvertingKernels :
    (onePixel 0).fits .yuv420p ∧ (onePixel 1).fits .yuv422p ∧ (onePixel 2).fits .yuyv ∧ (onePixel 3).fits .rgb555
      ∧ (onePixel 4).fits .rgb565 ∧ (onePixel 5).fits .rgb24 ∧ 0 < (onePixel 0).cfg.width.toNat
      ∧ 0 < (onePixel 0).cfg.height.toNat ∧ 2 * 0 + 0 < (onePixel 2).cfg.width.toNat * (onePixel 2).cfg.height.toNat :=
  ⟨onePixel_fits _ _, onePixel_fits _ _, onePixel_fits _ _,
    onePixel_fits _ _, onePixel_fits _ _, onePixel_fits _ _,
    by decide, by decide, by decide⟩

theorem test_witness_Rgb24SwapsOrViews :
    (∃ s : State, s.cfg.bgrInvert = true ∧ s.fits .rgb24 ∧ 0 < s.cfg.width.toNat * s.cfg.height.toNat)
      ∧ (∃ s : State, s.cfg.bgrInvert = false ∧ s.slice < 2 ^ 32 ∧ 3 * (s.cfg.width.toNat * s.cfg.height.toNat) < 2 ^ 32) :=
  ⟨⟨{ onePixel 5 with cfg := { (onePixel 5).cfg with bgrInvert := true } }, rfl,
      ⟨one_le_maxPixels, .inr (by decide)⟩, by decide⟩,
    ⟨onePixel 5, rfl, by decide, by decide⟩⟩

theorem test_witness_GreyAndOtherAreViews : (onePixel 7).slice < 2 ^ 32 ∧ (onePixel 7).cfg.frameCount ≠ 0 := by decide

/-- The last byte of the space is the region: two bytes of input do not fit. The other fault needs a frame beyond
MAX_PIXELS, which exists unless MAX_PIXELS, open, is as large as the largest frame. -/
theorem test_witness_KernelsFaultOutsideTheSpaces :
    (∃ s : State, usesScratch .rgb565 s.cfg.bgrInvert = true ∧ s.pixelCount ≤ Config.maxPixels
        ∧ 0 < needIn .rgb565 s.pixelCount ∧ 2 ^ 32 < s.slice + needIn .rgb565 s.pixelCount)
      ∧ (Config.maxPixels < 65535 * 65535 →
        ∃ s : State, usesScratch .rgb565 s.cfg.bgrInvert = true ∧ Config.maxPixels < s.pixelCount) :=
  ⟨⟨{ onePixel 4 with cfg := { (onePixel 4).cfg with regionBase := 0xFFFFFFFF, regionSize := 1, frameCount := 1 } },
      rfl, one_le_maxPixels, by decide, by decide⟩,
    fun h => ⟨{ onePixel 4 with cfg := { (onePixel 4).cfg with width := 65535, height := 65535 } }, rfl, h⟩⟩

theorem test_witness_YuvToRgbClampsExactSums :
    (0 : Int) ≤ 255 ∧ (255 : Int) ≤ 255 ∧ (-127 : Int) ≤ -127 ∧ (-127 : Int) ≤ 127 ∧ (-127 : Int) ≤ 127
      ∧ (127 : Int) ≤ 127 := by decide

/-- Where nothing races a byte may be read as itself only. -/
theorem mayRead_settled {s : State} (h : s.stale = []) {k : Nat} {v : Byte} (hv : s.inByte k = v) :
    ∀ c, mayRead s k c → c = v := by
  rintro c (rfl | hc)
  · exact hv
  · rw [h] at hc; exact absurd hc nofun

/-- One pixel whose chroma bytes are 128, planar and YUYV. -/
theorem test_witness_NeutralChromaGivesGrey :
    ∃ s : State, s.lut = builtTables ∧ 0 < s.cfg.width.toNat ∧ 0 < s.cfg.height.toNat
      ∧ (1 = s.cfg.width.toNat * s.cfg.height.toNat + (0 / 2) * (s.cfg.width.toNat / 2) + 0 / 2
        ∧ 1 = s.cfg.width.toNat * s.cfg.height.toNat + (s.cfg.width.toNat / 2) * (s.cfg.height.toNat / 2)
            + (0 / 2) * (s.cfg.width.toNat / 2) + 0 / 2)
      ∧ (1 = s.cfg.width.toNat * s.cfg.height.toNat + 0 * (s.cfg.width.toNat / 2) + 0 / 2
        ∧ 1 = s.cfg.width.toNat * s.cfg.height.toNat + (s.cfg.width.toNat / 2) * s.cfg.height.toNat
            + 0 * (s.cfg.width.toNat / 2) + 0 / 2)
      ∧ (∀ c, mayRead s 1 c → c = 128)
      ∧ (∃ t, exec .kernelYuv420p s = .next t) ∧ (∃ t, exec .kernelYuv422p s = .next t)
      ∧ (∃ t, exec .kernelYuyv s = .next t) ∧ 2 * 0 + 0 < s.cfg.width.toNat * s.cfg.height.toNat
      ∧ (∀ c, mayRead s (4 * 0 + 1) c → c = 128) ∧ (∀ c, mayRead s (4 * 0 + 3) c → c = 128) :=
  ⟨neutralPixel, rfl, by decide, by decide, by decide, by decide, mayRead_settled rfl (by decide),
    ⟨_, show neutralPixel.runYuv420p = _ from endInScratch_of_fits (neutralPixel_fits .yuv420p) _⟩,
    ⟨_, show neutralPixel.runYuv422p = _ from endInScratch_of_fits (neutralPixel_fits .yuv422p) _⟩,
    ⟨_, show neutralPixel.runYuyv = _ from endInScratch_of_fits (neutralPixel_fits .yuyv) _⟩,
    by decide, mayRead_settled rfl (by decide), mayRead_settled rfl (by decide)⟩

/-- Two runs that agree on configuration, tables, slot and input, and on little else. -/
theorem test_witness_ConversionDependsOnInputOnly :
    ∃ s₁ s₂ t₁ t₂ : State, s₁ ≠ s₂ ∧ s₁.cfg = s₂.cfg ∧ s₁.lut = s₂.lut ∧ s₁.seq.convSlot = s₂.seq.convSlot
      ∧ dimensionsLegal .rgb565 s₁.cfg.width.toNat s₁.cfg.height.toNat = true
      ∧ (∀ k, k < needIn .rgb565 s₁.pixelCount → s₁.inByte k = s₂.inByte k ∧ settledAt s₁ k ∧ settledAt s₂ k)
      ∧ PixelFormat.rgb565.kernel = .kernelRgb565 ∧ exec .kernelRgb565 s₁ = .next t₁ ∧ exec .kernelRgb565 s₂ = .next t₂
      ∧ usesScratch .rgb565 s₁.cfg.bgrInvert = true ∧ 2 < 3 * s₁.pixelCount :=
  ⟨onePixel 4, { onePixel 4 with scratch := [(0, 1)] }, _, _,
    fun h => absurd (congrArg State.scratch h) (by decide), rfl, rfl, rfl, by decide, fun _ _ => ⟨rfl, nofun, nofun⟩, rfl,
    show (onePixel 4).runRgb565 = _ from endInScratch_of_fits (onePixel_fits .rgb565 4) _,
    show State.runRgb565 { onePixel 4 with scratch := [(0, 1)] } = _ from
      endInScratch_of_fits (s := { onePixel 4 with scratch := [(0, 1)] }) (onePixel_fits .rgb565 4) _, rfl, by decide⟩

/-- A booted engine meets the invariant, whatever is to come. -/
theorem booted_inv (events : List Event) : Inv (facing events booted) :=
  { ring := show ringInRange booted by unfold ringInRange; decide
    status := show statusConsistent booted from ⟨by decide, by decide, by decide, fun _ => rfl⟩
    tables := fun _ => rfl
    channel := ⟨rfl, rfl⟩
    sequencer := trivial
    memories := ⟨List.Pairwise.nil, List.Pairwise.nil, nofun, nofun, nofun, nofun⟩ }

theorem test_witness_StepKeepsInvariant :
    ∃ s t : State, Inv s ∧ step s = .next t ∧ s.status.lutValid = true ∧ (∀ d rest, s.agenda ≠ .reset d :: rest)
      ∧ ringInRange s ∧ (∀ a b rest, s.agenda ≠ .deviceWrite a b :: rest) :=
  ⟨facing [.hostWrite 32 0x00 2] booted, _, booted_inv _, rfl, rfl, nofun, (booted_inv []).ring, nofun⟩

theorem test_witness_InvariantExcludesEngineFaults :
    ∃ (s : State) (r : Fault), Inv s ∧ step s = .fault r :=
  ⟨facing [.hostReadScratch Config.scratchCap] booted, .scratchOutOfRange, booted_inv _,
    if_pos (Nat.lt_irrefl Config.scratchCap)⟩

theorem test_witness_OnlyIdleHostWritesChangeConfiguration :
    ∃ s t : State, step s = .next t ∧ t.cfg ≠ s.cfg :=
  ⟨facing [.hostWrite 32 0x10 8] booted, _, rfl, by decide⟩

theorem test_witness_OvrClearedOnlyByHostOrReset :
    ∃ s t : State, step s = .next t ∧ s.status.ovr = true ∧ t.status.ovr = false :=
  ⟨facing [.hostWrite 32 0x04 0x10] booted.dropWrite, _, rfl, rfl, rfl⟩

theorem test_witness_CapIndexWriters :
    ∃ s t : State, step s = .next t ∧ t.ring.capIndex ≠ s.ring.capIndex :=
  ⟨facing [.engine] (awaiting .rqQ (.queueCapture 0) (some .ok) 0 booted), _, rfl, by decide⟩

theorem test_witness_SyncIndexWriters :
    ∃ s t : State, step s = .next t ∧ t.ring.syncIndex ≠ s.ring.syncIndex :=
  ⟨facing [.engine] (awaiting .awW (.waitSync 0) (some .ok) 1 booted), _, rfl, by decide⟩

theorem test_witness_SlotsTileTheRegion : booted.cfg.frameCount ≠ 0 ∧ 1 < booted.cfg.frameCount.toNat ∧ 0 < 1 := by decide

/-- Slot 1 is queued and slot 0 is not. -/
def slotOneQueued : State :=
  { booted with chan := { outstanding := none, answer := none, log := [.answered (.queueCapture 1) .ok] } }

/-- Byte 0x1040 of the queued slot 1 races; the device writes it, CONVERT names slot 0, the host sets the ring with nothing
queued and a reset comes with nothing queued. -/
theorem test_witness_UnqueuedSlotKeepsItsBytes :
    (∃ s t : State, s.agenda = .deviceWrite 0x1040 7 :: [] ∧ deviceMayWrite s 0x1040
        ∧ (0 : SlotIndex) ∉ queuedSlots s.chan.log ∧ 0x3F < s.frameSize ∧ step s = .next t)
      ∧ (∃ s t : State, raceOnlyWhereQueued s ∧ s.stale ≠ [] ∧ step s = .next t
        ∧ (∀ addr b rest, s.agenda = .deviceWrite addr b :: rest → deviceMayWrite s addr)
        ∧ (∀ offset v rest, s.agenda = .hostWrite 32 offset v :: rest → offset ∈ [0x18, 0x1C, 0x20] → hostMaySetRing s)
        ∧ (∀ down rest, s.agenda = .reset down :: rest → queuedSlots s.chan.log = []))
      ∧ hostMaySetRing booted
      ∧ (∃ s : State, raceOnlyWhereQueued s ∧ s.stale ≠ [] ∧ hostMayConvert s s.seq.convSlot
        ∧ s.seq.convSlot < s.cfg.frameCount.toNat ∧ 0x3F < s.frameSize) := by
  have hq : ∀ events, raceOnlyWhereQueued { slotOneQueued with stale := [(0x1040, 5)], agenda := events } := by
    intro events c hc
    obtain rfl : c = (0x1040, 5) := by simpa using hc
    exact ⟨1, show (1 : SlotIndex) ∈ queuedSlots slotOneQueued.chan.log by decide,
      show slotOneQueued.slotAddr 1 ≤ 0x1040 by decide, show 0x1040 < slotOneQueued.slotAddr 1 + slotOneQueued.frameSize by decide⟩
  exact ⟨⟨{ slotOneQueued with agenda := [.deviceWrite 0x1040 7] }, _, rfl, ⟨1, by decide, by decide, by decide⟩, by decide,
      by decide, rfl⟩,
    ⟨{ slotOneQueued with stale := [(0x1040, 5)], agenda := [.hostRead 32 0x04] }, _, hq _, nofun, rfl, nofun, nofun, nofun⟩,
    rfl, ⟨{ slotOneQueued with stale := [(0x1040, 5)], agenda := [] }, hq _, nofun, by unfold hostMayConvert; decide,
      by decide, by decide⟩⟩

theorem test_witness_CaptureCyclesAdvanceBothIndices :
    let s := facing (List.replicate 2 captureCycle).flatten booted
    s.seq.phase = .idle ∧ s.chan.outstanding = none ∧ s.chan.answer = none ∧ s.status.lutValid = true
      ∧ s.cfg.capturesPerFrame = 1 ∧ s.cfg.frameCount ≠ 0 ∧ regionOfR233 s ∧ geometryOfR171 s ∧ ringInRange s
      ∧ s.agenda = (List.replicate 2 captureCycle).flatten ++ [] :=
  ⟨rfl, rfl, rfl, rfl, rfl, by decide, by unfold regionOfR233; decide, ⟨by decide, by decide⟩, (booted_inv _).ring, rfl⟩

theorem test_witness_AnswersMatchRequests :
    (facing [.deviceAnswer .ok] (awaiting .rqQ (.queueCapture 0) none 0 booted)).chan.outstanding = some (.queueCapture 0)
      ∧ (facing [.deviceAnswer .ok] (awaiting .rqQ (.queueCapture 0) none 0 booted)).chan.answer = none
      ∧ (facing [.deviceAnswer .ok] booted).chan.outstanding = none
      ∧ (awaiting .rqQ (.queueCapture 0) (some .ok) 0 booted).chan.answer ≠ none
      ∧ (facing [.deviceAnswer .ok] (awaiting .awW (.waitSync 1) none 1 booted)).chan.outstanding = some (.waitSync 1) := by
  decide

theorem test_witness_ResetLeavesResetValues :
    (facing [.reset false] booted).agenda = .reset false :: [] ∧ booted.chan.outstanding = none
      ∧ booted.chan.answer = none ∧ queuedSlots booted.chan.log = []
      ∧ (awaiting .awW (.waitSync 0) none 1 booted).chan.outstanding ≠ none
      ∧ queuedSlots [.answered (.queueCapture 1) .ok] ≠ [] := by decide

end Sys2Proof.Tests
end

section
/-! SUPPORT. What a turn of the host that writes a register does, and the writes that are dropped while BUSY is 1
(10_state.md R26, R41, R44). -/

namespace Sys2Proof.Machine

/-! ### One write of the host -/

/-- While BUSY is 1 a word written to CMD is dropped undecoded (R25, R44). -/
theorem commandTurn_of_busy {s : State} (h : s.seq.phase ≠ .idle) (w : Word) :
    s.commandTurn w = .over (.next s.dropWrite) := by
  simp [State.commandTurn, State.busy, h]

/-- A word written to offset 0 has the turn of a command (R25). -/
theorem step_of_commandWrite {s : State} {w : Word} {rest : List Event}
    (h : s.agenda = .hostWrite 32 0x00 w :: rest) :
    step s = runTurn (State.commandTurn { s with agenda := rest } w) :=
  step_of_cons h

/-- A defined write at any other offset writes the register that the offset names (R41). -/
theorem step_of_registerWrite {s : State} {offset : Nat} {v : Word} {rest : List Event}
    (h : s.agenda = .hostWrite 32 offset v :: rest) (h4 : offset % 4 = 0) (hr : Reg.ofOffset offset ≠ .cmd) :
    step s = .next (State.writeReg { s with agenda := rest } (Reg.ofOffset offset) v) := by
  rw [step_of_cons h, State.eventTurn, State.hostWriteTurn, if_neg (by simp [h4])]
  split
  · next hc => exact absurd hc hr
  · rfl

/-- A write to STATUS leaves OVR set only where it was set and bit 4 is 0, and touches nothing else (R26). -/
theorem writeReg_status (s : State) (v : Word) :
    s.writeReg .status v = { s with status := { s.status with ovr := s.status.ovr && !v.getLsbD 4 } } := by
  unfold State.writeReg
  cases hv : v.getLsbD 4 <;> simp [State.clearOvr]

/-- A configuration register takes no value while BUSY is 1 (R44). -/
theorem writeReg_config_of_busy {s : State} {r : Reg} (hr : r.isConfig = true) (h : s.seq.phase ≠ .idle) (v : Word) :
    s.writeReg r v = s.dropWrite := by
  have hs : r ≠ .status := by rintro rfl; exact absurd hr nofun
  simp [State.writeReg, State.busy, hs, hr, h]

/-! ### The offsets of the configuration registers -/

/-- The nine offsets of R27 to R35, each of them a multiple of 4. -/
theorem isConfig_ofOffset {offset : Nat} (h : offset ∈ [0x08, 0x0C, 0x10, 0x14, 0x18, 0x1C, 0x20, 0x24, 0x28]) :
    offset % 4 = 0 ∧ (Reg.ofOffset offset).isConfig = true := by
  revert offset
  decide

/-- CMD is no configuration register (R44). -/
theorem ne_cmd_of_isConfig {r : Reg} (h : r.isConfig = true) : r ≠ .cmd := by
  rintro rfl
  exact absurd h nofun

/-! ### Whole steps -/

/-- The step of a write to STATUS, in every phase (R26). -/
theorem step_of_statusWrite {s : State} {v : Word} {rest : List Event} (h : s.agenda = .hostWrite 32 0x04 v :: rest) :
    step s = .next { s with agenda := rest, status := { s.status with ovr := s.status.ovr && !v.getLsbD 4 } } := by
  have hr : Reg.ofOffset 0x04 = .status := rfl
  rw [step_of_registerWrite h rfl (by rw [hr]; exact nofun), hr, writeReg_status]

/-- The step of a write to CMD while BUSY is 1 (R44). -/
theorem step_of_commandWrite_busy {s : State} {w : Word} {rest : List Event}
    (h : s.agenda = .hostWrite 32 0x00 w :: rest) (hp : s.seq.phase ≠ .idle) :
    step s = .next (State.dropWrite { s with agenda := rest }) := by
  rw [step_of_commandWrite h, commandTurn_of_busy (s := { s with agenda := rest }) hp, runTurn]

/-- The step of a write to a configuration register while BUSY is 1 (R44). -/
theorem step_of_configWrite_busy {s : State} {offset : Nat} {v : Word} {rest : List Event}
    (h : s.agenda = .hostWrite 32 offset v :: rest) (hp : s.seq.phase ≠ .idle)
    (hc : offset ∈ [0x08, 0x0C, 0x10, 0x14, 0x18, 0x1C, 0x20, 0x24, 0x28]) :
    step s = .next (State.dropWrite { s with agenda := rest }) := by
  obtain ⟨h4, hr⟩ := isConfig_ofOffset hc
  rw [step_of_registerWrite h h4 (ne_cmd_of_isConfig hr),
    writeReg_config_of_busy (s := { s with agenda := rest }) hr hp]

/-- Settles O9: CMD and the nine configuration registers by the two laws of a dropped write, STATUS by the law of its
write, which asks nothing of the phase. -/
theorem writesWhileBusyAreDropped : Obligations.WritesWhileBusyAreDropped := by
  intro s v offset rest h hp
  refine ⟨fun ho => ?_, ?_⟩
  · rcases List.mem_cons.1 ho with rfl | hc
    · exact step_of_commandWrite_busy h hp
    · exact step_of_configWrite_busy h hp hc
  · rintro rfl
    exact step_of_statusWrite h

end Sys2Proof.Machine
end

section
/-! SUPPORT. The slots of the capture ring tile the region: where each one starts and ends, and the order of their
addresses (20_memory.md R63, R64). -/

namespace Sys2Proof.Machine

/-- The next slot starts where this one ends (R64). -/
theorem slotAddr_succ (s : State) (i : Nat) : s.slotAddr (i + 1) = s.slotAddr i + s.frameSize := by
  rw [State.slotAddr, State.slotAddr, Nat.succ_mul, Nat.add_assoc]

/-- Slots stand in index order (R64). -/
theorem slotAddr_mono (s : State) {i j : Nat} (h : i ≤ j) : s.slotAddr i ≤ s.slotAddr j :=
  Nat.add_le_add_left (Nat.mul_le_mul_right _ h) _

/-- A slot ends before any later slot starts (R64). -/
theorem slotAddr_add_frameSize_le_slotAddr (s : State) {i j : Nat} (h : i < j) :
    s.slotAddr i + s.frameSize ≤ s.slotAddr j :=
  calc s.slotAddr i + s.frameSize = s.slotAddr (i + 1) := (slotAddr_succ s i).symm
    _ ≤ s.slotAddr j := slotAddr_mono s h

/-- The offset at which a slot ends lies within REGION_SIZE (R64). -/
theorem slotOffset_add_frameSize_le {s : State} {i : Nat} (h : i < s.cfg.frameCount.toNat) :
    i * s.frameSize + s.frameSize ≤ s.cfg.regionSize.toNat := by
  have hend := slotAddr_add_frameSize_le h
  rw [State.slotAddr, Nat.add_assoc] at hend
  exact Nat.le_of_add_le_add_left hend

/-- Settles O56: the address is its own definition at the frame size of R63; contiguity gives the order of the slots, and
`FRAME_COUNT` frames fill no more than the region. -/
theorem slotsTileTheRegion : Obligations.SlotsTileTheRegion := by
  intro s i hf hi
  have hsize := frameSize_eq hf
  have haddr : s.slotAddr i = s.cfg.regionBase.toNat + i * (s.cfg.regionSize.toNat / s.cfg.frameCount.toNat) := by
    rw [← hsize, State.slotAddr]
  exact ⟨haddr, hsize, slotAddr_succ s i, slotOffset_add_frameSize_le hi, slotAddr_add_frameSize_le hi,
    fun _ hij => slotAddr_add_frameSize_le_slotAddr s hij⟩

end Sys2Proof.Machine
end

section
/-! SUPPORT. A command word by its four fields, which words R99 calls illegal, and the decoder said once in these terms
(30_encoding.md R91 to R104). -/

namespace Sys2Proof

/-! ### A word by its fields -/

/-- The word with the given fields, as R91 draws it: Z1, SLOT, Z0, OP. -/
def wordOfFields (z1 : BitVec 16) (slot : BitVec 8) (z0 op : BitVec 4) : Word := z1 ++ slot ++ z0 ++ op

section fields
variable (z1 : BitVec 16) (slot : BitVec 8) (z0 op : BitVec 4)

@[simp] theorem opField_wordOfFields : opField (wordOfFields z1 slot z0 op) = op :=
  BitVec.extractLsb'_append_eq_right

@[simp] theorem z0Field_wordOfFields : z0Field (wordOfFields z1 slot z0 op) = z0 := by
  rw [z0Field, wordOfFields, BitVec.extractLsb'_append_eq_of_le (by decide)]
  exact BitVec.extractLsb'_append_eq_right

@[simp] theorem slotField_wordOfFields : slotField (wordOfFields z1 slot z0 op) = slot := by
  rw [slotField, wordOfFields, BitVec.extractLsb'_append_eq_of_le (by decide),
    BitVec.extractLsb'_append_eq_of_le (by decide)]
  exact BitVec.extractLsb'_append_eq_right

@[simp] theorem z1Field_wordOfFields : z1Field (wordOfFields z1 slot z0 op) = z1 := by
  rw [z1Field, wordOfFields, BitVec.extractLsb'_append_eq_of_le (by decide),
    BitVec.extractLsb'_append_eq_of_le (by decide)]
  exact BitVec.extractLsb'_append_eq_left

/-- The mask of CONVERT's row drops SLOT and keeps the other fields (R97). -/
theorem wordOfFields_and_convertMask :
    wordOfFields z1 slot z0 op &&& 0xFFFF00FF = wordOfFields z1 0 z0 op := by
  have hmask : (0xFFFF00FF : Word) = wordOfFields (BitVec.allOnes 16) 0 (BitVec.allOnes 4) (BitVec.allOnes 4) := rfl
  rw [hmask]
  simp only [wordOfFields]
  rw [BitVec.and_append, BitVec.and_append, BitVec.and_append, BitVec.and_allOnes, BitVec.and_allOnes,
    BitVec.and_allOnes]
  exact congrArg (z1 ++ · ++ z0 ++ op) BitVec.and_zero

end fields

/-- The four fields cover the word (R91). -/
theorem wordOfFields_fields (w : Word) : wordOfFields (z1Field w) (slotField w) (z0Field w) (opField w) = w := by
  simp only [wordOfFields, z1Field, slotField, z0Field, opField]
  rw [BitVec.extractLsb'_append_extractLsb'_eq_extractLsb' (show 16 = 8 + 8 from rfl),
    BitVec.extractLsb'_append_extractLsb'_eq_extractLsb' (show 8 = 4 + 4 from rfl),
    BitVec.extractLsb'_append_extractLsb'_eq_extractLsb' (show 4 = 0 + 4 from rfl)]
  exact BitVec.extractLsb'_eq_self

/-- A word is known by its fields. -/
theorem eq_wordOfFields_iff (w : Word) (z1 : BitVec 16) (slot : BitVec 8) (z0 op : BitVec 4) :
    w = wordOfFields z1 slot z0 op ↔ z1Field w = z1 ∧ slotField w = slot ∧ z0Field w = z0 ∧ opField w = op := by
  constructor
  · rintro rfl
    simp
  · rintro ⟨rfl, rfl, rfl, rfl⟩
    exact (wordOfFields_fields w).symm

/-- The two ways in which the spec writes SLOT are one (R91, R104). -/
theorem slotField_toNat (w : Word) : ((w >>> 8) &&& 0xFF).toNat = (slotField w).toNat := by
  rw [slotField, BitVec.extractLsb'_toNat, BitVec.toNat_and, BitVec.toNat_ushiftRight]
  exact Nat.and_two_pow_sub_one_eq_mod _ 8

/-- The CONVERT word of a slot (R97). -/
def convertWord (slot : BitVec 8) : Word := wordOfFields 0 slot 0 4

theorem convertWord_injective : Function.Injective convertWord := fun a b h => by
  simpa [convertWord] using congrArg slotField h

/-- A word matches CONVERT's row when its fields but SLOT are those of a CONVERT (R97). -/
theorem and_convertMask_eq_iff (w : Word) :
    w &&& 0xFFFF00FF = 0x00000004 ↔ z1Field w = 0 ∧ z0Field w = 0 ∧ opField w = 4 := by
  have hmask : w &&& 0xFFFF00FF = wordOfFields (z1Field w) 0 (z0Field w) (opField w) := by
    conv_lhs => rw [← wordOfFields_fields w]
    exact wordOfFields_and_convertMask _ _ _ _
  have hfour : (0x00000004 : Word) = wordOfFields 0 0 0 4 := rfl
  rw [hmask, hfour, eq_wordOfFields_iff]
  simp

/-- The words that match CONVERT's row are the CONVERT words. -/
theorem and_convertMask_eq_iff_mem_range (w : Word) :
    w &&& 0xFFFF00FF = 0x00000004 ↔ w ∈ Set.range convertWord := by
  rw [and_convertMask_eq_iff]
  constructor
  · rintro ⟨hz1, hz0, hop⟩
    exact ⟨slotField w, ((eq_wordOfFields_iff w _ _ _ _).2 ⟨hz1, rfl, hz0, hop⟩).symm⟩
  · rintro ⟨slot, rfl⟩
    simp [convertWord]

/-! ### The illegal words -/

/-- The four conditions of R99. -/
def IsIllegalWord (w : Word) : Prop :=
  opField w = 0 ∨ 5 ≤ (opField w).toNat ∨ z0Field w ≠ 0 ∨ z1Field w ≠ 0 ∨ (slotField w ≠ 0 ∧ opField w ≠ 4)

/-- The decoder rejects exactly the words of R99. -/
theorem decodeCommand_error_iff (w : Word) : (∃ e, decodeCommand w = .error e) ↔ IsIllegalWord w := by
  unfold decodeCommand IsIllegalWord
  split_ifs with hop hz0 hz1 hconvert hslot hbuild hreqcap
  · exact iff_of_true ⟨_, rfl⟩ (hop.elim .inl (.inr ∘ .inl))
  · exact iff_of_true ⟨_, rfl⟩ (.inr (.inr (.inl hz0)))
  · exact iff_of_true ⟨_, rfl⟩ (.inr (.inr (.inr (.inl hz1))))
  · exact iff_of_false nofun (by tauto)
  · exact iff_of_true ⟨_, rfl⟩ (.inr (.inr (.inr (.inr ⟨hslot, hconvert⟩))))
  all_goals exact iff_of_false nofun (by tauto)

/-- Every other word decodes. -/
theorem decodeCommand_ok_iff (w : Word) : (∃ i, decodeCommand w = .ok i) ↔ ¬ IsIllegalWord w := by
  rw [← decodeCommand_error_iff]
  cases decodeCommand w <;> simp

/-- An OP that R99 does not call illegal is one of the four of R92. -/
theorem opField_legal_iff (op : BitVec 4) :
    ¬ (op = 0 ∨ 5 ≤ op.toNat) ↔ op = 1 ∨ op = 2 ∨ op = 3 ∨ op = 4 := by
  revert op
  decide

/-- The legal words by name: three words without an operand and the row of CONVERT (R104). -/
theorem not_isIllegalWord_iff (w : Word) :
    ¬ IsIllegalWord w ↔ w = 0x00000001 ∨ w = 0x00000002 ∨ w = 0x00000003 ∨ w &&& 0xFFFF00FF = 0x00000004 := by
  have hone : (0x00000001 : Word) = wordOfFields 0 0 0 1 := rfl
  have htwo : (0x00000002 : Word) = wordOfFields 0 0 0 2 := rfl
  have hthree : (0x00000003 : Word) = wordOfFields 0 0 0 3 := rfl
  rw [and_convertMask_eq_iff, hone, htwo, hthree]
  simp only [eq_wordOfFields_iff]
  have hop := opField_legal_iff (opField w)
  unfold IsIllegalWord
  grind

/-- A word of CONVERT's row decodes to CONVERT with the slot of its field SLOT (R97, R100). -/
theorem decodeCommand_of_and_convertMask {w : Word} (h : w &&& 0xFFFF00FF = 0x00000004) :
    decodeCommand w = .ok (.convert (slotField w).toNat) := by
  obtain ⟨hz1, hz0, hop⟩ := (and_convertMask_eq_iff w).1 h
  simp [decodeCommand, hz1, hz0, hop]

/-! ### How many words are legal -/

/-- The words that decode: the three words without an operand and the CONVERT words. -/
theorem setOf_decodeCommand_ok :
    {w : Word | ∃ i, decodeCommand w = .ok i} = ({1, 2, 3} : Set Word) ∪ Set.range convertWord := by
  ext w
  rw [Set.mem_ofPred_eq, decodeCommand_ok_iff, not_isIllegalWord_iff, and_convertMask_eq_iff_mem_range]
  simp [or_assoc]

/-- The words without an operand have another OP than CONVERT. -/
theorem disjoint_range_convertWord : Disjoint ({1, 2, 3} : Set Word) (Set.range convertWord) := by
  rw [Set.disjoint_right]
  rintro _ ⟨slot, rfl⟩ h
  have hop : opField (convertWord slot) = 4 := opField_wordOfFields _ _ _ _
  rcases h with h | h | h <;> rw [h] at hop <;> exact absurd hop (by decide)

/-- There are as many CONVERT words as slots (R97). -/
theorem ncard_range_convertWord : (Set.range convertWord).ncard = 256 := by
  rw [Set.ncard_range_of_injective convertWord_injective]
  exact Nat.card_eq_of_equiv_fin (BitVec.equivFin (m := 8)).toEquiv

theorem ncard_operandless : ({1, 2, 3} : Set Word).ncard = 3 := by
  rw [Set.ncard_eq_three]
  exact ⟨1, 2, 3, by decide, by decide, by decide, rfl⟩

/-- `3 + 256 = 259` words are legal (R104). -/
theorem ncard_decodeCommand_ok : Set.ncard {w : Word | ∃ i, decodeCommand w = .ok i} = 259 := by
  rw [setOf_decodeCommand_ok, Set.ncard_union_eq disjoint_range_convertWord (Set.toFinite _) (Set.toFinite _),
    ncard_operandless, ncard_range_convertWord]

/-! ### The statements -/

/-- Settles O3: the decoder rejects exactly the words of R99, the others are the three words without an operand and the
CONVERT words, and these two sets are disjoint. -/
theorem decoderFollowsSummary : Obligations.DecoderFollowsSummary := by
  refine ⟨fun w => ⟨?_, ?_, ?_, fun h => ?_, fun h1 h2 h3 h4 => ?_⟩, ncard_decodeCommand_ok⟩
  · rintro rfl; rfl
  · rintro rfl; rfl
  · rintro rfl; rfl
  · rw [slotField_toNat, decodeCommand_of_and_convertMask h]
  · rw [decodeCommand_error_iff, ← not_not (a := IsIllegalWord w), not_isIllegalWord_iff]
    exact not_or.2 ⟨h1, not_or.2 ⟨h2, not_or.2 ⟨h3, h4⟩⟩⟩

/-- Settles O5: the tag table of R98, row by row. -/
theorem tagsSelectKernels : Obligations.TagsSelectKernels :=
  ⟨rfl, rfl, rfl, rfl, rfl, rfl, rfl, rfl⟩

end Sys2Proof
end

section
/-! SUPPORT. The end of an illegal command word (30_encoding.md R99, 60_exceptions.md R235). -/

namespace Sys2Proof.Machine

/-- While IDLE a failure at acceptance leaves DONE and ERR and nothing else (R236): the clearing of DONE and ERR by
acceptance does not show. -/
theorem raise_acceptWord_of_idle {s : State} (h : s.seq.phase = .idle) (e : ErrorCode) :
    s.acceptWord.raise e = Claims.refusedWith s e.code := by
  have hseq : { s.seq with phase := .idle } = s.seq := by rw [← h]
  simp [State.raise, State.acceptWord, Claims.refusedWith, hseq]

/-- While IDLE a word that does not decode ends at once with ERR_ILLEGAL (R99). -/
theorem commandTurn_of_error {s : State} {w : Word} {e : IllegalWord} (hp : s.seq.phase = .idle)
    (hd : decodeCommand w = .error e) : s.commandTurn w = .over (.next (s.acceptWord.raise .illegal)) := by
  simp [State.commandTurn, State.busy, hp, hd]

/-- Settles O8: the words of R99 are those the decoder rejects, and what decodes is a command. -/
theorem illegalWordEndsAtOnce : Obligations.IllegalWordEndsAtOnce := by
  intro w
  refine ⟨fun hill s rest hag hp => ?_, fun hlegal => ?_⟩
  · obtain ⟨e, he⟩ := (decodeCommand_error_iff w).2 hill
    rw [step_of_commandWrite hag, commandTurn_of_error (s := { s with agenda := rest }) hp he,
      raise_acceptWord_of_idle (s := { s with agenda := rest }) hp]
    rfl
  · obtain ⟨i, hi⟩ := (decodeCommand_ok_iff w).2 hlegal
    rcases decodeCommand_cases hi with rfl | rfl | rfl | ⟨slot, rfl⟩
    · exact .inl hi
    · exact .inr (.inl hi)
    · exact .inr (.inr (.inl hi))
    · exact .inr (.inr (.inr ⟨slot, hi⟩))

end Sys2Proof.Machine
end

section
/-! SUPPORT. BUILD_LUT: what its build step leaves, and the shape of the six tables (40_lut_builder.md R120 to R126). -/

namespace Sys2Proof.Machine

/-! ### The build step -/

@[simp] theorem State.buildTables_lut (s : State) : s.buildTables.lut = builtTables := rfl

/-- The build step writes the tables and LUT_VALID, ends the command in success, and leaves everything else (R120). -/
theorem State.buildTables_eq (s : State) : s.buildTables =
    { s with lut := builtTables, status := { s.status with lutValid := true, done := true, err := 0 },
             seq := { s.seq with phase := .idle } } := rfl

/-- In phase LUTB the operation is the build step, which cannot fail (R120, U14). -/
theorem exec_buildLut_of_lutB {s : State} (h : s.seq.phase = .lutB) : exec .buildLut s = .next s.buildTables := by
  rw [exec, execBuildLut, h]

/-! ### Luma (R121) -/

theorem yValue_low {c : Nat} (h : c ≤ 16) : yValue c = 0 := if_pos h

theorem yValue_high {c : Nat} (h : 235 ≤ c) : yValue c = 255 := by
  rw [yValue, if_neg (by omega), if_pos h]

theorem yValue_mid {c : Nat} (h : 17 ≤ c ∧ c ≤ 234) : yValue c = Int.tdiv (255 * ((c : Int) - 16)) 219 := by
  rw [yValue, if_neg (by omega), if_neg (by omega), tdiv_eq]

/-- The middle of the luma table stops at 253: its last product, `255 * 218`, is below `254 * 219`. -/
theorem yValue_mid_le {c : Nat} (h : 17 ≤ c ∧ c ≤ 234) : yValue c ≤ 253 := by
  rw [yValue_mid h, Int.tdiv_eq_ediv_of_nonneg (by omega)]
  omega

theorem yValue_ne_254 (c : Nat) : yValue c ≠ 254 := by
  rcases Nat.lt_or_ge c 17 with hlow | hlow
  · rw [yValue_low (by omega)]; decide
  · rcases Nat.lt_or_ge c 235 with hhigh | hhigh
    · have := yValue_mid_le (c := c) (by omega)
      omega
    · rw [yValue_high hhigh]; decide

theorem yValue_monotone : Monotone yValue := by
  intro c d hcd
  rcases Nat.lt_or_ge c 17 with hc | hc
  · rw [yValue_low (by omega)]
    exact (yValue_range d).1
  · rcases Nat.lt_or_ge d 235 with hd | hd
    · rw [yValue_mid (by omega), yValue_mid (by omega)]
      exact Int.tdiv_le_tdiv (by decide) (by omega)
    · rw [yValue_high hd]
      exact (yValue_range c).2

/-! ### Chroma (R122) -/

theorem uvValue_low {c : Nat} (h : c ≤ 16) : uvValue c = -127 := if_pos h

theorem uvValue_high {c : Nat} (h : 240 ≤ c) : uvValue c = 127 := by
  rw [uvValue, if_neg (by omega), if_pos h]

theorem uvValue_mid {c : Nat} (h : 17 ≤ c ∧ c ≤ 239) : uvValue c = Int.tdiv (127 * ((c : Int) - 128)) 112 := by
  rw [uvValue, if_neg (by omega), if_neg (by omega), tdiv_eq]

theorem uvValue_monotone : Monotone uvValue := by
  intro c d hcd
  rcases Nat.lt_or_ge c 17 with hc | hc
  · rw [uvValue_low (by omega)]
    exact (uvValue_range d).1
  · rcases Nat.lt_or_ge d 240 with hd | hd
    · rw [uvValue_mid (by omega), uvValue_mid (by omega)]
      exact Int.tdiv_le_tdiv (by decide) (by omega)
    · rw [uvValue_high hd]
      exact (uvValue_range c).2

/-- Chroma is odd about 128 where it is not clamped: truncation treats both signs alike. -/
theorem uvValue_reflect {c d : Nat} (hc : 17 ≤ c ∧ c ≤ 239) (hd : d = 256 - c) : uvValue d = -uvValue c := by
  have hneg : 127 * ((d : Int) - 128) = -(127 * ((c : Int) - 128)) := by omega
  rw [uvValue_mid (by omega), uvValue_mid hc, hneg, Int.neg_tdiv]

/-! ### The coefficient tables (R123 to R126) -/

theorem coefficientValue_eq (a k : Int) : coefficientValue a k = Int.tdiv (a * k) 1000 := tdiv_eq _ _

theorem coefficientValue_neg (a k : Int) : coefficientValue a (-k) = -coefficientValue a k := by
  rw [coefficientValue_eq, coefficientValue_eq, Int.mul_neg, Int.neg_tdiv]

/-- An entry is at most what the last index gives, where the product is `127 * a`. -/
theorem coefficientValue_le {a b k : Int} (ha : 0 ≤ a) (hb : a * 127 < 1000 * (b + 1)) (hk : k ≤ 127) :
    coefficientValue a k ≤ b := by
  have hlast : Int.tdiv (a * 127) 1000 ≤ b := by
    rw [Int.tdiv_eq_ediv_of_nonneg (by omega)]
    omega
  rw [coefficientValue_eq]
  exact (Int.tdiv_le_tdiv (by decide) (Int.mul_le_mul_of_nonneg_left hk ha)).trans hlast

/-- What R123 to R126 say of an entry of the table with coefficient `a`: its value, its range `-b..b`, and that it is odd. -/
theorem coefficientTable_entry {a b k : Int} (ha : 0 ≤ a ∧ a ≤ 2000) (hb : a * 127 < 1000 * (b + 1))
    (hk : -127 ≤ k ∧ k ≤ 127) :
    signedEntry (coefficientTable a) k = Int.tdiv (a * k) 1000
      ∧ -b ≤ signedEntry (coefficientTable a) k ∧ signedEntry (coefficientTable a) k ≤ b
      ∧ signedEntry (coefficientTable a) (-k) = -signedEntry (coefficientTable a) k := by
  rw [signedEntry_coefficientTable ha hk, signedEntry_coefficientTable ha (k := -k) (by omega), coefficientValue_neg]
  have hle := coefficientValue_le ha.1 hb hk.2
  have hge := coefficientValue_le ha.1 hb (k := -k) (by omega)
  rw [coefficientValue_neg] at hge
  exact ⟨coefficientValue_eq a k, by omega, hle, rfl⟩

/-! ### The statements -/

/-- Settles O21: every entry of Y and UV is its rule's value, so each clause is a fact about `yValue` or `uvValue`, and
the frame is the build step's own equation. -/
theorem buildLutWritesLumaAndChromaTables : Obligations.BuildLutWritesLumaAndChromaTables := by
  intro s hs
  refine ⟨s.buildTables, exec_buildLut_of_lutB hs, ?_⟩
  simp only [State.buildTables_lut, builtTables_yAt, builtTables_uvAt]
  exact ⟨fun c => ⟨yValue_low, yValue_high, fun h1 h2 => yValue_mid ⟨h1, h2⟩⟩,
    fun c => ⟨(yValue_range _).1, (yValue_range _).2, yValue_ne_254 _⟩,
    fun c d h => yValue_monotone h,
    fun c => ⟨uvValue_low, uvValue_high, fun h1 h2 => uvValue_mid ⟨h1, h2⟩⟩,
    fun c => uvValue_range _,
    fun c d h => uvValue_monotone h,
    uvValue_mid (c := 128) (by decide),
    fun c d h1 h2 hd => uvValue_reflect ⟨h1, h2⟩ hd,
    s.buildTables_eq⟩

/-- Settles O22: the four tables are one function of the coefficient, so each is an instance of `coefficientTable_entry`;
the small values are quotients of literals. -/
theorem buildLutWritesCoefficientTables : Obligations.BuildLutWritesCoefficientTables := by
  intro s hs
  refine ⟨s.buildTables, exec_buildLut_of_lutB hs, fun k hlow hhigh => ?_, ?_⟩
  · have hk : -127 ≤ k ∧ k ≤ 127 := ⟨hlow, hhigh⟩
    obtain ⟨hrv, hrvLow, hrvHigh, hrvOdd⟩ := coefficientTable_entry (a := 1402) (b := 178) (by decide) (by decide) hk
    obtain ⟨hgu, hguLow, hguHigh, hguOdd⟩ := coefficientTable_entry (a := 344) (b := 43) (by decide) (by decide) hk
    obtain ⟨hgv, hgvLow, hgvHigh, hgvOdd⟩ := coefficientTable_entry (a := 714) (b := 90) (by decide) (by decide) hk
    have hbu := coefficientTable_entry (a := 1772) (b := 225) (by decide) (by decide) hk
    exact ⟨hrv, hrvLow, hrvHigh, hrvOdd, hgu, hguLow, hguHigh, hguOdd, hgv, hgvLow, hgvHigh, hgvOdd, hbu⟩
  · simp (disch := decide) only [State.buildTables_lut, builtTables_rv, builtTables_gu, builtTables_gv, builtTables_bu]
    decide

end Sys2Proof.Machine
end

section
/-! SUPPORT. The ring controller at acceptance and on a FAIL answer: the checks of REQCAP and AWAIT, what an accepted
command leaves, and the failure ends (41_ring_controller.md R141 to R152, 42_convert_yuv.md R171). -/

namespace Sys2Proof.Machine

/-! ### The geometry and size table (R171) -/

/-- The model's check of the region is the condition of R233 (d). -/
theorem regionLegal_iff (s : State) : s.regionLegal = true ↔ Claims.regionOfR233 s := decide_eq_true_iff

/-- With both dimensions even the two chroma planes of 4:2:0 are half as large as the luma plane (R171, R174). -/
theorem needIn_yuv420p {w h : Nat} (hw : w % 2 = 0) (hh : h % 2 = 0) :
    needIn .yuv420p (w * h) = 3 * (w * h) / 2 := by
  have h4 : 2 * 2 ∣ w * h := Nat.mul_dvd_mul (Nat.dvd_of_mod_eq_zero hw) (Nat.dvd_of_mod_eq_zero hh)
  rw [needIn]
  omega

/-- With an even width the two chroma planes of 4:2:2 are as large as the luma plane (R171, R175). -/
theorem needIn_yuv422p {w : Nat} (hw : w % 2 = 0) (h : Nat) : needIn .yuv422p (w * h) = 2 * (w * h) := by
  have h2 : 2 ∣ w * h := (Nat.dvd_of_mod_eq_zero hw).mul_right h
  rw [needIn]
  omega

/-- The geometry and size checks are three: dimensions, input and SCRATCH (R171; R233 (e), (f), (g)). -/
theorem geometryLegal_eq_true_iff (s : State) :
    s.geometryLegal = true ↔
      dimensionsLegal s.format s.cfg.width.toNat s.cfg.height.toNat = true ∧ needIn s.format s.pixelCount ≤ s.frameSize
        ∧ (usesScratch s.format s.cfg.bgrInvert = true → s.pixelCount ≤ Config.maxPixels) := by
  cases hu : usesScratch s.format s.cfg.bgrInvert <;> simp [State.geometryLegal, hu, and_assoc]

/-- PIXFMT holds the tag of the format it names: no tag is reserved (R98). -/
theorem tag_format (s : State) : s.format.tag = s.cfg.pixfmt := by
  have tag_ofTag : ∀ t : BitVec 3, (PixelFormat.ofTag t).tag = t := by decide
  exact tag_ofTag _

/-- Where there are slots the model's checks are the table of R171, row by row: only the planar formats' input sizes are
written in another way, and they agree on the dimensions the row allows. -/
theorem geometryLegal_iff {s : State} (hf : s.cfg.frameCount ≠ 0) :
    s.geometryLegal = true ↔ Claims.geometryOfR171 s := by
  rw [geometryLegal_eq_true_iff, frameSize_eq hf, State.pixelCount, Claims.geometryOfR171, ← tag_format s]
  cases s.format
  case yuv420p =>
    simp only [dimensionsLegal, Bool.and_eq_true, decide_eq_true_eq, beq_iff_eq, usesScratch, forall_const, and_assoc]
    exact and_congr_right fun _ => and_congr_right fun _ => and_congr_right fun hw => and_congr_right fun hh => by
      rw [needIn_yuv420p hw hh]
  case yuv422p =>
    simp only [dimensionsLegal, Bool.and_eq_true, decide_eq_true_eq, beq_iff_eq, usesScratch, forall_const, and_assoc]
    exact and_congr_right fun _ => and_congr_right fun _ => and_congr_right fun hw => by
      rw [needIn_yuv422p hw]
  all_goals simp [dimensionsLegal, needIn, usesScratch, PixelFormat.tag, and_assoc]

/-! ### Acceptance of REQCAP -/

/-- Reselection puts one request in front of the trace when the device is shared (R142). -/
theorem reselectChannel_eq_log (s : State) :
    s.reselectChannel = { s with chan := { s.chan with
      log := if s.cfg.shared = true then .request (.selectChannel s.cfg.channel) :: s.chan.log else s.chan.log } } := by
  unfold State.reselectChannel
  split <;> rfl

/-- In phase IDLE the operation of REQCAP is its acceptance (R140 step A). -/
theorem exec_reqcap_of_idle {s : State} (h : s.seq.phase = .idle) : exec .reqcap s = .next s.acceptReqcap := by
  rw [exec, execReqcap, h]

/-- Without slots REQCAP is refused before any request (R141). -/
theorem acceptReqcap_of_noSlots {s : State} (h : s.cfg.frameCount = 0) :
    s.acceptReqcap = s.acceptWord.raise .config := if_pos h

/-- With slots REQCAP is accepted whatever else the state holds (R141 to R144). -/
theorem acceptReqcap_of_slots {s : State} (h : s.cfg.frameCount ≠ 0) :
    s.acceptReqcap = { s with
      status := { s.status with done := false, err := 0 }
      ring := { s.ring with activeIndex := s.ring.capIndex }
      chan := { s.chan with
        outstanding := some (.queueCapture s.ring.capIndex)
        log := .request (.queueCapture s.ring.capIndex) ::
          (if s.cfg.shared = true then .request (.selectChannel s.cfg.channel) :: s.chan.log else s.chan.log) }
      seq := { s.seq with phase := .rqQ } } := by
  rw [State.acceptReqcap, if_neg h, reselectChannel_eq_log]
  rfl

/-- Settles O23: the one check decides between the refusal and the acceptance. -/
theorem reqcapAcceptance : Obligations.ReqcapAcceptance := by
  intro s hp
  rw [exec_reqcap_of_idle hp]
  refine ⟨fun hf => ?_, fun hf => ?_⟩
  · rw [acceptReqcap_of_noSlots hf, raise_acceptWord_of_idle hp]
    rfl
  · rw [acceptReqcap_of_slots hf]

/-! ### Acceptance of AWAIT -/

/-- In phase IDLE the operation of AWAIT is its acceptance (R147 step A). -/
theorem exec_await_of_idle {s : State} (h : s.seq.phase = .idle) : exec .await s = .next s.acceptAwait := by
  rw [exec, execAwait, h]

/-- The first check is LUT_VALID (R148). -/
theorem awaitCheck_of_not_lutValid {s : State} (h : s.status.lutValid = false) : s.awaitCheck = some .seq := by
  simp [State.awaitCheck, h]

/-- Once the tables are built every check that fails gives ERR_CONFIG (R148). -/
theorem awaitCheck_of_lutValid {s : State} (h : s.status.lutValid = true) :
    s.awaitCheck = none ∨ s.awaitCheck = some .config := by
  unfold State.awaitCheck
  split_ifs with hlut
  · simp [h] at hlut
  all_goals simp

/-- AWAIT is accepted exactly when all that R148 lists holds. -/
theorem awaitCheck_eq_none_iff (s : State) :
    s.awaitCheck = none ↔ s.status.lutValid = true ∧ s.cfg.frameCount ≠ 0 ∧ s.cfg.capturesPerFrame ≠ 0
      ∧ Claims.regionOfR233 s ∧ Claims.geometryOfR171 s := by
  constructor
  · intro h
    obtain ⟨hlut, hfc, hcpf, hregion, hgeometry⟩ := awaitCheck_none h
    exact ⟨hlut, hfc, hcpf, (regionLegal_iff s).1 hregion, (geometryLegal_iff hfc).1 hgeometry⟩
  · rintro ⟨hlut, hfc, hcpf, hregion, hgeometry⟩
    rw [← regionLegal_iff] at hregion
    rw [← geometryLegal_iff hfc] at hgeometry
    simp only [State.awaitCheck, hlut, hfc, hcpf, hregion, hgeometry, Bool.not_true, Bool.false_eq_true, if_false]

/-- An AWAIT that fails a check ends at once with that check's error (R148). -/
theorem acceptAwait_of_some {s : State} {e : ErrorCode} (h : s.awaitCheck = some e) :
    s.acceptAwait = s.acceptWord.raise e := by
  rw [State.acceptAwait, h]

/-- An accepted AWAIT has cleared the output, sampled the multiplicity and issued its wait (R148, R149). -/
theorem acceptAwait_of_none {s : State} (h : s.awaitCheck = none) :
    s.acceptAwait = { s with
      status := { s.status with done := false, err := 0, outValid := false }
      out := .zero
      seq := { s.seq with phase := .awW, burstLeft := s.cfg.capturesPerFrame.toNat }
      chan := { s.chan with
        outstanding := some (.waitSync s.ring.syncIndex)
        log := .request (.waitSync s.ring.syncIndex) :: s.chan.log } } := by
  rw [State.acceptAwait, h]
  rfl

/-- An AWAIT refused in phase IDLE leaves DONE and ERR only (R148, R236). -/
theorem exec_await_refused {s : State} {e : ErrorCode} (hp : s.seq.phase = .idle) (h : s.awaitCheck = some e) :
    exec .await s = .next (Claims.refusedWith s e.code) := by
  rw [exec_await_of_idle hp, acceptAwait_of_some h, raise_acceptWord_of_idle hp]

/-- Settles O26: the checks answer ERR_SEQ, ERR_CONFIG or none, and none exactly when every condition that the statement
writes out holds. -/
theorem awaitAcceptance : Obligations.AwaitAcceptance := by
  intro s hp
  refine ⟨fun hlut => ?_, fun hlut hbad => ?_, fun hlut hfc hcpf hregion hgeometry => ?_⟩
  · exact exec_await_refused hp (awaitCheck_of_not_lutValid hlut)
  · have hrefused : s.awaitCheck ≠ none := by
      rw [ne_eq, awaitCheck_eq_none_iff]
      tauto
    exact exec_await_refused hp ((awaitCheck_of_lutValid hlut).resolve_left hrefused)
  · rw [exec_await_of_idle hp, acceptAwait_of_none ((awaitCheck_eq_none_iff s).2 ⟨hlut, hfc, hcpf, hregion, hgeometry⟩)]

/-! ### A FAIL answer to AWAIT -/

/-- A failure end on a FAIL answer: the request is answered and the command has its error; everything else, the trace
included, stands (R236). -/
theorem raise_takeAnswer_eq (s : State) (e : ErrorCode) : s.takeAnswer.raise e =
    { s with
      status := { s.status with done := true, err := e.code }
      chan := { s.chan with outstanding := none, answer := none }
      seq := { s.seq with phase := .idle } } := rfl

/-- A failed wait ends AWAIT with ERR_WAIT (R150). -/
theorem exec_await_of_waitFailed {s : State} (hp : s.seq.phase = .awW) (ha : s.chan.answer = some .fail) :
    exec .await s = .next (s.takeAnswer.raise .wait) := by
  simp only [exec, execAwait, hp, State.endWait, ha]

/-- A failed burst re-queue ends AWAIT with ERR_QUEUE (R152). -/
theorem exec_await_of_requeueFailed {s : State} (hp : s.seq.phase = .awQ) (ha : s.chan.answer = some .fail) :
    exec .await s = .next (s.takeAnswer.raise .queue) := by
  simp only [exec, execAwait, hp, State.endRequeue, ha]

/-- Settles O29: both phases have the same failure end, each with its own code. -/
theorem awaitFailuresLeaveEverything : Obligations.AwaitFailuresLeaveEverything := by
  rintro s code ha (⟨hp, rfl⟩ | ⟨hp, rfl⟩)
  · rw [exec_await_of_waitFailed hp ha, raise_takeAnswer_eq, ErrorCode.code]
  · rw [exec_await_of_requeueFailed hp ha, raise_takeAnswer_eq, ErrorCode.code]

end Sys2Proof.Machine
end

section
/-! SUPPORT. CONVERT at acceptance: its checks and what an accepted command leaves (42_convert_yuv.md R183). -/

namespace Sys2Proof.Machine

/-- In phase IDLE the operation of CONVERT is its acceptance (R170 step A). -/
theorem exec_convert_of_idle {s : State} (h : s.seq.phase = .idle) (slot : Nat) :
    exec (.convert slot) s = .next (s.acceptConvert slot) := by
  rw [exec, execConvert, h]

/-- The first check is LUT_VALID, for every format (R183). -/
theorem convertCheck_of_not_lutValid {s : State} (h : s.status.lutValid = false) (slot : Nat) :
    s.convertCheck slot = some .seq := by
  simp [State.convertCheck, h]

/-- Once the tables are built every check that fails gives ERR_CONFIG (R183). -/
theorem convertCheck_of_lutValid {s : State} (h : s.status.lutValid = true) (slot : Nat) :
    s.convertCheck slot = none ∨ s.convertCheck slot = some .config := by
  unfold State.convertCheck
  split_ifs with hlut
  · simp [h] at hlut
  all_goals simp

/-- CONVERT is accepted exactly when all that R183 lists holds; a slot below FRAME_COUNT says that there are slots. -/
theorem convertCheck_eq_none_iff (s : State) (slot : Nat) :
    s.convertCheck slot = none ↔ s.status.lutValid = true ∧ slot < s.cfg.frameCount.toNat
      ∧ Claims.regionOfR233 s ∧ Claims.geometryOfR171 s := by
  constructor
  · intro h
    obtain ⟨hlut, hfc, hslot, hregion, hgeometry⟩ := convertCheck_none h
    exact ⟨hlut, hslot, (regionLegal_iff s).1 hregion, (geometryLegal_iff hfc).1 hgeometry⟩
  · rintro ⟨hlut, hslot, hregion, hgeometry⟩
    have hfc : s.cfg.frameCount ≠ 0 := fun h => by simp [h] at hslot
    rw [← regionLegal_iff] at hregion
    rw [← geometryLegal_iff hfc] at hgeometry
    simp only [State.convertCheck, hlut, hfc, Nat.not_le.2 hslot, hregion, hgeometry, Bool.not_true, Bool.false_eq_true,
      if_false]

/-- A CONVERT refused in phase IDLE leaves DONE and ERR only (R183, R236). -/
theorem exec_convert_refused {s : State} {slot : Nat} {e : ErrorCode} (hp : s.seq.phase = .idle)
    (h : s.convertCheck slot = some e) : exec (.convert slot) s = .next (Claims.refusedWith s e.code) := by
  rw [exec_convert_of_idle hp, State.acceptConvert, h]
  exact congrArg _ (raise_acceptWord_of_idle hp e)

/-- An accepted CONVERT has cleared the output and latched its slot (R170 step A, R183). -/
theorem acceptConvert_of_none {s : State} {slot : Nat} (h : s.convertCheck slot = none) :
    s.acceptConvert slot = { s with
      status := { s.status with done := false, err := 0, outValid := false }
      out := .zero
      seq := { s.seq with phase := .conv, convSlot := slot, convAdvance := false } } := by
  rw [State.acceptConvert, h]
  rfl

/-- Settles O32: the checks answer ERR_SEQ, ERR_CONFIG or none, and none exactly when every condition that the statement
writes out holds. -/
theorem convertAcceptance : Obligations.ConvertAcceptance := by
  intro s slot hp
  refine ⟨fun hlut => ?_, fun hlut hbad => ?_, fun hlut hslot hregion hgeometry => ?_⟩
  · exact exec_convert_refused hp (convertCheck_of_not_lutValid hlut slot)
  · have hrefused : s.convertCheck slot ≠ none := by
      rw [ne_eq, convertCheck_eq_none_iff]
      rintro ⟨-, hslot, hregion, hgeometry⟩
      rcases hbad with hfc | hle | hnoRegion | hnoGeometry
      · simp [hfc] at hslot
      · exact absurd hslot (Nat.not_lt.2 hle)
      · exact hnoRegion hregion
      · exact hnoGeometry hgeometry
    exact exec_convert_refused hp ((convertCheck_of_lutValid hlut slot).resolve_left hrefused)
  · have hnone : s.convertCheck slot = none := (convertCheck_eq_none_iff s slot).2 ⟨hlut, hslot, hregion, hgeometry⟩
    rw [exec_convert_of_idle hp, acceptConvert_of_none hnone]

end Sys2Proof.Machine
end

section
/-! SUPPORT. What a converting kernel reads and leaves, in the terms of the statements: its input bytes, the conversion's
frame and descriptor, and the bytes of each pixel (42_convert_yuv.md R170, R172, R173; 70_reset_and_hazards.md R267). -/

namespace Sys2Proof.Machine

open Sys2Proof.Claims

/-- Every byte a kernel reads is one that the conversion may read there (R267). -/
theorem mayRead_readInput (s : State) (p k : Nat) : mayRead s k (s.readInput p k) := readInput_cases s p k

/-- Whatever a converting kernel's pixels are, its end is a conversion into SCRATCH with the OUT_INFO word of its format
and three channels (R170 step D, R173). -/
theorem scratchConversion_scratchResult (s : State) (fmt : PixelFormat) (px : Nat → Rgb) :
    scratchConversion s (s.scratchResult fmt (raster s.pixelCount px)) (infoWord fmt true 3) := by
  refine ⟨⟨rfl, rfl, rfl, rfl, rfl, rfl, rfl, rfl, rfl, rfl⟩, rfl, rfl, rfl, rfl, fun hlen => ?_, fun a ha => ?_⟩
  · exact word32_toNat hlen
  · exact read_raster_above s.scratch s.pixelCount px ha

/-- The three bytes of a pixel of the image stand in the SCRATCH that the kernel leaves (R172). -/
theorem pixelIs_scratchResult (s : State) (fmt : PixelFormat) {px : Nat → Rgb} {p : Nat} (hp : p < s.pixelCount) {q : Rgb}
    (hq : px p = q) : pixelIs (s.scratchResult fmt (raster s.pixelCount px)) p q.r q.g q.b := by
  subst hq
  exact ⟨read_scratchResult s fmt px (c := 0) hp (by decide), read_scratchResult s fmt px (c := 1) hp (by decide),
    read_scratchResult s fmt px (c := 2) hp (by decide)⟩

/-- A pixel of the image that `yuv2rgb` makes stands in SCRATCH by its formula (R172, R177). -/
theorem yuvPixelIs_scratchResult (s : State) (fmt : PixelFormat) {px : Nat → Rgb} {p : Nat} (hp : p < s.pixelCount)
    {y u v : Int} (hq : px p = yuv2rgb s.lut y u v) :
    yuvPixelIs s (s.scratchResult fmt (raster s.pixelCount px)) p y u v :=
  pixelIs_scratchResult s fmt hp hq

/-! ### Pixels of the raster -/

/-- Pixel `(x, r)` of the raster is one of its pixels. -/
theorem rasterIndex_lt {s : State} {x r : Nat} (hx : x < s.cfg.width.toNat) (hr : r < s.cfg.height.toNat) :
    r * s.cfg.width.toNat + x < s.pixelCount :=
  calc r * s.cfg.width.toNat + x
      < (r + 1) * s.cfg.width.toNat := by rw [Nat.succ_mul]; omega
    _ ≤ s.cfg.height.toNat * s.cfg.width.toNat := Nat.mul_le_mul_right _ hr
    _ = s.pixelCount := Nat.mul_comm _ _

/-- Pixel `r * W + x` stands in column `x`. -/
theorem rasterIndex_mod {w x : Nat} (hx : x < w) (r : Nat) : (r * w + x) % w = x := by
  rw [Nat.mul_add_mod', Nat.mod_eq_of_lt hx]

/-- Pixel `r * W + x` stands in row `r`. -/
theorem rasterIndex_div {w x : Nat} (hx : x < w) (r : Nat) : (r * w + x) / w = r := by
  rw [Nat.mul_comm, Nat.mul_add_div (Nat.zero_lt_of_lt hx), Nat.div_eq_of_lt hx, Nat.add_zero]

end Sys2Proof.Machine
end

section
/-! SUPPORT. The pixel formula over the built tables, and the three YUV kernels pixel by pixel (42_convert_yuv.md R174 to
R179). -/

namespace Sys2Proof.Machine

open Sys2Proof.Claims

/-! ### The pixel formula (R177) -/

/-- One channel of `yuv2rgb` is its sum clamped to 0..255, in the spec's order of the bounds (R10, R177). -/
theorem clamp8_eq_max_min (x : Int) : ((clamp8 x).toNat : Int) = max 0 (min 255 x) := by
  rw [clamp8_toNat, min_comm]

/-- A byte value is not changed by the clamp. -/
theorem clamp8_toNat_of_range {x : Int} (h : 0 ≤ x ∧ x ≤ 255) : ((clamp8 x).toNat : Int) = x := by
  rw [clamp8_toNat]
  omega

/-- A byte clamps to itself. -/
theorem clamp8_byte (b : Byte) : clamp8 b.toNat = b := by
  have h : ((clamp8 b.toNat).toNat : Int) = b.toNat := clamp8_toNat_of_range (by omega)
  exact BitVec.eq_of_toNat_eq (by omega)

/-- Over the built tables the three sums of `yuv2rgb` have truncating divisions for their table entries (R123 to R126,
R177). -/
theorem yuv2rgb_builtTables (y : Int) {u v : Int} (hu : -127 ≤ u ∧ u ≤ 127) (hv : -127 ≤ v ∧ v ≤ 127) :
    yuv2rgb builtTables y u v =
      { r := clamp8 (y + Int.tdiv (1402 * v) 1000)
        g := clamp8 (y - (Int.tdiv (344 * u) 1000 + Int.tdiv (714 * v) 1000))
        b := clamp8 (y + Int.tdiv (1772 * u) 1000) } := by
  simp only [yuv2rgb, builtTables_rv hv, builtTables_gu hu, builtTables_gv hv, builtTables_bu hu, coefficientValue_eq]

/-- Settles O43: the entries are R123 to R126's divisions, and each channel is one clamp of its sum. -/
theorem yuvToRgbClampsExactSums : Obligations.YuvToRgbClampsExactSums := by
  intro y u v _ _ hu₀ hu₁ hv₀ hv₁
  rw [yuv2rgb_builtTables y ⟨hu₀, hu₁⟩ ⟨hv₀, hv₁⟩]
  exact ⟨clamp8_eq_max_min _, clamp8_eq_max_min _, clamp8_eq_max_min _⟩

/-! ### Neutral chroma (R179) -/

/-- The chroma byte 128 stands for no chroma (R122). -/
theorem builtTables_uvAt_neutral : builtTables.uvAt 128 = 0 := by
  rw [builtTables_uvAt]
  rfl

/-- Without chroma the three channels are the one luma value, clamped (R179). -/
theorem yuv2rgb_builtTables_grey (y : Int) :
    yuv2rgb builtTables y 0 0 = { r := clamp8 y, g := clamp8 y, b := clamp8 y } := by
  rw [yuv2rgb_builtTables y (by decide) (by decide)]
  simp

/-- Luma 128 stands for 130 (R121). -/
theorem yValue_neutral : yValue 128 = 130 := by decide

/-! ### The kernels, pixel by pixel -/

/-- The YUV420P row ends with the raster of its pixels (R174). -/
theorem exec_kernelYuv420p (s : State) :
    exec .kernelYuv420p s = s.endInScratch .yuv420p (raster s.pixelCount s.yuv420pPixel) := rfl

/-- The YUV422P row ends with the raster of its pixels (R175). -/
theorem exec_kernelYuv422p (s : State) :
    exec .kernelYuv422p s = s.endInScratch .yuv422p (raster s.pixelCount s.yuv422pPixel) := rfl

/-- The YUYV row ends with the raster of its pixels (R176). -/
theorem exec_kernelYuyv (s : State) :
    exec .kernelYuyv s = s.endInScratch .yuyv (raster s.pixelCount s.yuyvPixel) := rfl

/-- Pixel `(x, r)` of YUV420P by its own three input bytes (R174). -/
theorem yuv420pPixel_at (s : State) {x : Nat} (hx : x < s.cfg.width.toNat) (r : Nat) :
    s.yuv420pPixel (r * s.cfg.width.toNat + x) =
      yuv2rgb s.lut
        (s.lut.yAt (s.readInput (r * s.cfg.width.toNat + x) (r * s.cfg.width.toNat + x)))
        (s.lut.uvAt (s.readInput (r * s.cfg.width.toNat + x)
          (s.cfg.width.toNat * s.cfg.height.toNat + (r / 2) * (s.cfg.width.toNat / 2) + x / 2)))
        (s.lut.uvAt (s.readInput (r * s.cfg.width.toNat + x)
          (s.cfg.width.toNat * s.cfg.height.toNat + (s.cfg.width.toNat / 2) * (s.cfg.height.toNat / 2)
            + (r / 2) * (s.cfg.width.toNat / 2) + x / 2))) := by
  simp only [State.yuv420pPixel, rasterIndex_mod hx, rasterIndex_div hx]

/-- Pixel `(x, r)` of YUV422P by its own three input bytes (R175). -/
theorem yuv422pPixel_at (s : State) {x : Nat} (hx : x < s.cfg.width.toNat) (r : Nat) :
    s.yuv422pPixel (r * s.cfg.width.toNat + x) =
      yuv2rgb s.lut
        (s.lut.yAt (s.readInput (r * s.cfg.width.toNat + x) (r * s.cfg.width.toNat + x)))
        (s.lut.uvAt (s.readInput (r * s.cfg.width.toNat + x)
          (s.cfg.width.toNat * s.cfg.height.toNat + r * (s.cfg.width.toNat / 2) + x / 2)))
        (s.lut.uvAt (s.readInput (r * s.cfg.width.toNat + x)
          (s.cfg.width.toNat * s.cfg.height.toNat + (s.cfg.width.toNat / 2) * s.cfg.height.toNat
            + r * (s.cfg.width.toNat / 2) + x / 2))) := by
  simp only [State.yuv422pPixel, rasterIndex_mod hx, rasterIndex_div hx]

/-- Pixel `b` of group `g` of YUYV by its raw luma byte and the group's two chroma bytes (R176). -/
theorem yuyvPixel_at (s : State) {b : Nat} (hb : b < 2) (g : Nat) :
    s.yuyvPixel (2 * g + b) =
      yuv2rgb s.lut (s.readInput (2 * g + b) (4 * g + 2 * b)).toNat (s.lut.uvAt (s.readInput (2 * g + b) (4 * g + 1)))
        (s.lut.uvAt (s.readInput (2 * g + b) (4 * g + 3))) := by
  have hdiv : (2 * g + b) / 2 = g := by omega
  have hmod : (2 * g + b) % 2 = b := by omega
  simp only [State.yuyvPixel, hdiv, hmod]

/-- Settles O37: the kernel completes where the image fits, and pixel `2g + b` is made of the three bytes it reads of its
group. -/
theorem yuyvConvertsEveryGroup : Obligations.YuyvConvertsEveryGroup := by
  intro s hfits
  refine ⟨_, (exec_kernelYuyv s).trans (endInScratch_of_fits hfits _), scratchConversion_scratchResult s .yuyv _,
    fun g b hb hp => ?_⟩
  exact ⟨_, _, _, mayRead_readInput s _ _, mayRead_readInput s _ _, mayRead_readInput s _ _,
    yuvPixelIs_scratchResult s .yuyv hp (yuyvPixel_at s hb g)⟩

/-! ### The grey property (R179) -/

/-- A planar kernel's pixel whose two chroma bytes are 128 is grey: its channels are the Y entry of its luma byte, which
lies in 0..255 and so passes the clamp. The kernel enters by its pixel function alone. -/
theorem planarPixel_grey {s : State} (hlut : s.lut = builtTables) (fmt : PixelFormat) {px : Nat → Rgb} {p uAt vAt : Nat}
    (hp : p < s.pixelCount) (hu : ∀ c, mayRead s uAt c → c = 128) (hv : ∀ c, mayRead s vAt c → c = 128)
    (hpx : px p = yuv2rgb s.lut (s.lut.yAt (s.readInput p p)) (s.lut.uvAt (s.readInput p uAt))
      (s.lut.uvAt (s.readInput p vAt))) :
    ∃ y b : Byte, mayRead s p y ∧ pixelIs (s.scratchResult fmt (raster s.pixelCount px)) p b b b
      ∧ (b.toNat : Int) = s.lut.yAt y ∧ (y = 128 → b = 130) := by
  rw [hu _ (mayRead_readInput s p uAt), hv _ (mayRead_readInput s p vAt), hlut, builtTables_uvAt_neutral,
    yuv2rgb_builtTables_grey] at hpx
  refine ⟨s.readInput p p, _, mayRead_readInput s p p, pixelIs_scratchResult s fmt hp hpx, ?_, fun hy => ?_⟩
  · rw [hlut, builtTables_yAt]
    exact clamp8_toNat_of_range (yValue_range _)
  · rw [hy, builtTables_yAt]
    exact congrArg clamp8 yValue_neutral

/-- A YUYV pixel whose group's two chroma bytes are 128 is its raw luma byte three times. -/
theorem yuyvPixel_grey {s : State} (hlut : s.lut = builtTables) {g b : Nat} (hb : b < 2)
    (hu : ∀ c, mayRead s (4 * g + 1) c → c = 128) (hv : ∀ c, mayRead s (4 * g + 3) c → c = 128) :
    ∃ y : Byte, mayRead s (4 * g + 2 * b) y ∧ s.yuyvPixel (2 * g + b) = { r := y, g := y, b := y } := by
  refine ⟨_, mayRead_readInput s (2 * g + b) _, ?_⟩
  rw [yuyvPixel_at s hb g, hu _ (mayRead_readInput s _ _), hv _ (mayRead_readInput s _ _), hlut,
    builtTables_uvAt_neutral, yuv2rgb_builtTables_grey, clamp8_byte]

/-- Settles O44: each planar kernel meets `planarPixel_grey` at its own chroma addresses; in YUYV the luma byte goes through
no table. -/
theorem neutralChromaGivesGrey : Obligations.NeutralChromaGivesGrey := by
  intro s t hlut
  refine ⟨?_, fun g b hu hv hexec hb hp => ?_⟩
  · rintro i x r uAt vAt hx hr (⟨rfl, rfl, rfl⟩ | ⟨rfl, rfl, rfl⟩) hu hv hexec
    · obtain ⟨-, rfl⟩ := (endInScratch_eq_next_iff s t _ _).1 ((exec_kernelYuv420p s).symm.trans hexec)
      exact planarPixel_grey hlut _ (rasterIndex_lt hx hr) hu hv (yuv420pPixel_at s hx r)
    · obtain ⟨-, rfl⟩ := (endInScratch_eq_next_iff s t _ _).1 ((exec_kernelYuv422p s).symm.trans hexec)
      exact planarPixel_grey hlut _ (rasterIndex_lt hx hr) hu hv (yuv422pPixel_at s hx r)
  · obtain ⟨-, rfl⟩ := (endInScratch_eq_next_iff s t _ _).1 ((exec_kernelYuyv s).symm.trans hexec)
    obtain ⟨y, hy, hgrey⟩ := yuyvPixel_grey hlut hb hu hv
    exact ⟨y, hy, pixelIs_scratchResult s .yuyv hp hgrey⟩

end Sys2Proof.Machine
end

section
/-! SUPPORT. The kernel RGB24: its two ends (43_convert_rgb_passthrough.md R202 to R204), and what a view
leaves in the terms of the statements (R170, R173). -/

namespace Sys2Proof.Machine

open Sys2Proof.Claims

/-- A view is a conversion's end whatever its format, channel count and length: the frame of R170 holds. -/
theorem conversionFrame_endAsView (s : State) (fmt : PixelFormat) (channels : BitVec 2) (len : Nat) :
    conversionFrame s (s.endAsView fmt channels len) :=
  ⟨rfl, rfl, rfl, rfl, rfl, rfl, rfl, rfl, rfl, rfl⟩

/-- With BGR_INVERT = 1 the RGB24 row ends with the raster of its exchanged pixels (R203, R204). -/
theorem exec_kernelRgb24_of_bgrInvert {s : State} (h : s.cfg.bgrInvert = true) :
    exec .kernelRgb24 s = s.endInScratch .rgb24 (raster s.pixelCount s.swappedPixel) := if_pos h

/-- With BGR_INVERT = 0 the RGB24 row ends with a view of three bytes a pixel (R202, R203). -/
theorem exec_kernelRgb24_of_not_bgrInvert {s : State} (h : s.cfg.bgrInvert = false) :
    exec .kernelRgb24 s = .next (s.endAsView .rgb24 3 (3 * s.pixelCount)) := if_neg (Bool.eq_false_iff.mp h)

/-- Settles O40, by BGR_INVERT: where it is 1 the kernel completes because the image fits, and pixel `i` stands in SCRATCH as
the three bytes it reads, the last first; where it is 0 the end is the view, whose address and length are exact words where
they fit one. -/
theorem rgb24SwapsOrViews : Obligations.Rgb24SwapsOrViews := by
  refine fun s => ⟨fun hinvert hfits => ?swapped, fun hview => ?view⟩
  case swapped =>
    refine ⟨_, (exec_kernelRgb24_of_bgrInvert hinvert).trans (endInScratch_of_fits hfits _),
      scratchConversion_scratchResult s .rgb24 _, fun i hi => ?_⟩
    exact ⟨_, _, _, mayRead_readInput s i _, mayRead_readInput s i _, mayRead_readInput s i _,
      pixelIs_scratchResult s .rgb24 hi (q := s.swappedPixel i) rfl⟩
  case view =>
    exact ⟨_, exec_kernelRgb24_of_not_bgrInvert hview, conversionFrame_endAsView s _ _ _, rfl, rfl, rfl, rfl,
      word32_toNat, word32_toNat⟩

end Sys2Proof.Machine
end

section
/-! SUPPORT. The round trip of the decoder and the encoder over both code spaces (30_encoding.md R90 to R98). -/

namespace Sys2Proof

/-- The encoder writes CONVERT by its fields (R91, R97). -/
theorem encode_convert (slot : Nat) : encode (.convert slot) = .command (convertWord (BitVec.ofNat 8 slot)) := rfl

/-- A CONVERT word decodes to CONVERT of its slot (R97). -/
theorem decodeCommand_convertWord (slot : BitVec 8) : decodeCommand (convertWord slot) = .ok (.convert slot.toNat) := by
  rw [decodeCommand_of_and_convertMask ((and_convertMask_eq_iff_mem_range _).2 ⟨slot, rfl⟩), convertWord,
    slotField_wordOfFields]

/-- A tag is the encoding of the kernel it decodes to, and every kernel is well formed (R98). -/
theorem encode_decodeTag (t : BitVec 3) : encode (decodeTag t) = .tag t ∧ (decodeTag t).wf = true := by
  revert t
  decide

/-- A command word that decodes is the encoding of what it decodes to, which is well formed: the legal words are the three
words without an operand and the CONVERT words (R92 to R97, R104). -/
theorem encode_decodeCommand {w : Word} {i : Instr} (h : decodeCommand w = .ok i) :
    encode i = .command w ∧ i.wf = true := by
  rcases (not_isIllegalWord_iff w).1 ((decodeCommand_ok_iff w).1 ⟨i, h⟩) with rfl | rfl | rfl | hmask
  · obtain rfl : Instr.buildLut = i := Except.ok.inj h
    exact ⟨rfl, rfl⟩
  · obtain rfl : Instr.reqcap = i := Except.ok.inj h
    exact ⟨rfl, rfl⟩
  · obtain rfl : Instr.await = i := Except.ok.inj h
    exact ⟨rfl, rfl⟩
  · obtain ⟨slot, rfl⟩ := (and_convertMask_eq_iff_mem_range w).1 hmask
    obtain rfl := Except.ok.inj ((decodeCommand_convertWord slot).symm.trans h)
    exact ⟨by rw [encode_convert, BitVec.ofNat_toNat, BitVec.setWidth_eq], decide_eq_true slot.isLt⟩

/-- Settles O1, constructor by constructor: CONVERT by the decoding of its word, where a well-formed slot is not cut by its
eight bits; every other instruction has one fixed code. -/
theorem decodeOfEncodeIsIdentity : Obligations.DecodeOfEncodeIsIdentity := by
  intro i hwf
  cases i
  case convert slot =>
    have hslot : slot < 256 := of_decide_eq_true hwf
    rw [encode_convert, decode, decodeCommand_convertWord, BitVec.toNat_ofNat, Nat.mod_eq_of_lt hslot]
  all_goals rfl

/-- Settles O2: each code space by its own lemma. -/
theorem encodeOfDecodeIsIdentity : Obligations.EncodeOfDecodeIsIdentity := by
  rintro (w | t) i h
  · exact encode_decodeCommand h
  · obtain rfl : decodeTag t = i := Except.ok.inj h
    exact encode_decodeTag t

/-- Settles O4: ten words, each decoded by evaluation (V7). -/
theorem sampleWordsDecode : Obligations.SampleWordsDecode :=
  ⟨rfl, rfl, rfl, rfl, rfl, rfl, rfl, rfl, rfl, rfl⟩

end Sys2Proof
end

section
/-! SUPPORT. What a step leaves of each part of the state: the parts that no operation of the engine touches, who writes
the ring, the configuration, the tables and OVR, and what is kept of the contents of SCRATCH. -/

namespace Sys2Proof.Machine

/-! ### A step by its event -/

/-- A step is the move of one event; with an empty agenda it is a turn of the engine (log 3). -/
theorem step_move {s t : State} (h : step s = .next t) :
    ∃ e rest, (e = .engine ∨ s.agenda = e :: rest) ∧ EventMove { s with agenda := rest } e t := by
  rcases step_next h with ⟨hnil, hm⟩ | ⟨e, rest, hcons, hm⟩
  · have hs : { s with agenda := [] } = s := by rw [← hnil]
    exact ⟨.engine, [], .inl rfl, .engine (hs.symm ▸ hm)⟩
  · exact ⟨e, rest, .inr hcons, hm⟩

/-! ### What the engine never touches -/

/-- What is left alone by every turn of the engine and by the acceptance of a command: the configuration, DEVBUF and its old
values, OVR, the captures the device holds, and every old content of SCRATCH that the host may still see. -/
structure EngineFrame (s t : State) : Prop where
  cfg : t.cfg = s.cfg
  devbuf : t.devbuf = s.devbuf
  stale : t.stale = s.stale
  ovr : t.status.ovr = s.status.ovr
  queue : queuedSlots t.chan.log = queuedSlots s.chan.log
  older : s.host.olderScratch <:+ t.host.olderScratch

/-- A request is no answer, so it leaves the captures the device holds (R73). -/
@[simp] theorem queuedSlots_request (r : DevRequest) (log : List DevRecord) :
    queuedSlots (.request r :: log) = queuedSlots log := rfl

@[simp] theorem queuedSlots_reselectChannel (s : State) :
    queuedSlots s.reselectChannel.chan.log = queuedSlots s.chan.log := by
  rw [reselectChannel_eq_log]
  cases s.cfg.shared <;> rfl

theorem EngineMove.frame {s t : State} (h : EngineMove s t) : EngineFrame s t := by
  cases h with
  | image => exact ⟨rfl, rfl, rfl, rfl, rfl, List.suffix_cons ..⟩
  | _ => exact ⟨rfl, rfl, rfl, rfl, rfl, List.suffix_rfl⟩

theorem Accepted.frame {s t : State} (h : Accepted s t) : EngineFrame s t := by
  cases h with
  | reqcap =>
    have hq := queuedSlots_reselectChannel s.acceptWord
    rw [reselectChannel_eq] at *
    exact ⟨rfl, rfl, rfl, rfl, hq, List.suffix_rfl⟩
  | _ => exact ⟨rfl, rfl, rfl, rfl, rfl, List.suffix_rfl⟩

/-! ### Register writes -/

/-- A word of a table's window is an entry of the table or unmapped (R45). -/
theorem windowEntry_cases {size : Nat} (n : Nat) (reg : Fin size → Reg) :
    (∃ k, windowEntry n reg = reg k) ∨ windowEntry n reg = .unmapped := by
  unfold windowEntry
  split
  · exact .inl ⟨_, rfl⟩
  · exact .inr rfl

/-- From 0x1000 on there is the table window and nothing else (R45). -/
theorem ofOffset_high {offset : Nat} (h : 0x1000 ≤ offset) :
    (Reg.ofOffset offset).isWindow = true ∨ Reg.ofOffset offset = .unmapped := by
  have entry : ∀ {size : Nat} (n : Nat) (reg : Fin size → Reg), (∀ k, (reg k).isWindow = true) →
      (windowEntry n reg).isWindow = true ∨ windowEntry n reg = .unmapped := fun n reg hreg => by
    rcases windowEntry_cases n reg with ⟨k, hk⟩ | hu
    · exact .inl (hk ▸ hreg k)
    · exact .inr hu
  unfold Reg.ofOffset
  rw [if_neg (Nat.not_lt.2 h)]
  split_ifs <;> exact entry _ _ fun _ => rfl

/-- No entry of the table window is a configuration register (R44, R45). -/
theorem isConfig_of_isWindow {r : Reg} (h : r.isWindow = true) : r.isConfig = false := by
  cases r <;> simp_all [Reg.isConfig, Reg.isWindow]

/-- Only the nine offsets of R27 to R35 name a configuration register. -/
theorem mem_of_isConfig_ofOffset {offset : Nat} (h : (Reg.ofOffset offset).isConfig = true) :
    offset ∈ [0x08, 0x0C, 0x10, 0x14, 0x18, 0x1C, 0x20, 0x24, 0x28] := by
  rcases Nat.lt_or_ge offset 0x1000 with hlow | hhigh
  · unfold Reg.ofOffset at h
    rw [if_pos hlow] at h
    split at h <;> simp_all [Reg.isConfig]
  · rcases ofOffset_high hhigh with hw | hu
    · exact absurd h (by simp [isConfig_of_isWindow hw])
    · simp [hu, Reg.isConfig] at h

/-- A write to a register touches OVR, the configuration and the ring only (R26, R31, R44). -/
theorem writeReg_eq (s : State) (r : Reg) (v : Word) : s.writeReg r v =
    { s with
      status := { s.status with ovr := (s.writeReg r v).status.ovr }
      cfg := (s.writeReg r v).cfg
      ring := (s.writeReg r v).ring } := by
  rcases writeReg_cases s r v with h | ⟨-, -, h⟩ | ⟨-, h⟩ | ⟨-, -, h⟩
  · rw [h]
  · rw [h]; rfl
  · rw [h]; rfl
  · rw [h, (writeConfig_eq s r v).1]

/-! ### Host reads -/

/-- A host read of SCRATCH changes what the host has seen and nothing else. -/
theorem hostReadScratchByte_eq {s t : State} {a : Nat} (h : s.hostReadScratchByte a = .next t) :
    t = { s with host := t.host } := by
  obtain ⟨-, rfl⟩ := hostReadScratchByte_next h
  rw [replyRacing_frame]

/-- A host read of DEVBUF changes what the host has seen and nothing else. -/
theorem hostReadDevbufByte_eq (s : State) (a : Word) :
    s.hostReadDevbufByte a = { s with host := (s.hostReadDevbufByte a).host } := by
  rw [State.hostReadDevbufByte, replyRacing_frame]

/-! ### Old values of DEVBUF -/

/-- The old values left after an answer: the OK answer to WAIT_SYNC settles the bytes of its slot, any other answer none
(R75). -/
theorem mem_staleAfter_iff (s : State) (r : DevRequest) (a : DevAnswer) (c : Host.Cell) :
    c ∈ s.staleAfter r a ↔ c ∈ s.stale ∧ ¬ (a = .ok ∧ ∃ slot : SlotIndex, r = .waitSync slot
      ∧ s.slotAddr slot.toNat ≤ c.1 ∧ c.1 < s.slotAddr slot.toNat + s.frameSize) := by
  unfold State.staleAfter
  split
  · simp only [State.inSlot, List.mem_filter, Bool.not_eq_true', Bool.and_eq_false_imp, decide_eq_true_eq,
      decide_eq_false_iff_not, true_and, DevRequest.waitSync.injEq, exists_eq_left', not_and]
  · next hother =>
    refine (and_iff_left ?_).symm
    rintro ⟨rfl, slot, rfl, -⟩
    exact hother slot rfl rfl

theorem mem_of_mem_staleAfter {s : State} {r : DevRequest} {a : DevAnswer} {c : Host.Cell} (h : c ∈ s.staleAfter r a) :
    c ∈ s.stale := ((mem_staleAfter_iff s r a c).1 h).1

/-! ### Who writes what -/

/-- The configuration is written by reset and by a configuration write while IDLE, by nothing else (R44). -/
theorem EventMove.cfg_writers {s t : State} {e : Event} (h : EventMove s e t) :
    t.cfg = s.cfg ∨ (∃ d, e = .reset d) ∨ (s.seq.phase = .idle ∧ ∃ offset v, e = .hostWrite 32 offset v
      ∧ (Reg.ofOffset offset).isConfig = true ∧ t = s.writeConfig (Reg.ofOffset offset) v) := by
  cases h with
  | engine h => exact .inl h.frame.cfg
  | command _ _ h => exact .inl h.frame.cfg
  | write offset v _ =>
    rcases writeReg_cases s (Reg.ofOffset offset) v with h | ⟨-, -, h⟩ | ⟨-, h⟩ | ⟨hp, hc, h⟩
    · exact .inl (by rw [h])
    · exact .inl (by rw [h, State.clearOvr_cfg])
    · exact .inl (by rw [h, State.dropWrite_cfg])
    · exact .inr (.inr ⟨hp, offset, v, rfl, hc, h⟩)
  | read => rw [readReg_eq]; exact .inl rfl
  | readScratch _ h => rw [hostReadScratchByte_eq h]; exact .inl rfl
  | readDevbuf => rw [hostReadDevbufByte_eq]; exact .inl rfl
  | reset d _ => exact .inr (.inl ⟨d, rfl⟩)
  | _ => exact .inl rfl

/-- What a turn of the engine does to the ring: the OK answer to REQCAP advances CAP_INDEX (R145), that to the final wait of
AWAIT advances SYNC_INDEX (R153), and every other turn leaves it. -/
theorem EngineMove.ring_writers {s t : State} (h : EngineMove s t) :
    t.ring = s.ring
      ∨ (t.ring = { s.ring with capIndex := advanceIndex s.ring.capIndex s.cfg.frameCount }
        ∧ s.seq.phase = .rqQ ∧ s.chan.answer = some .ok ∧ t.seq.phase = .idle ∧ t.status.err = 0)
      ∨ (t.ring = { s.ring with syncIndex := advanceIndex s.ring.syncIndex s.cfg.frameCount }
        ∧ s.seq.phase = .awW ∧ s.chan.answer = some .ok ∧ s.seq.burstLeft ≤ 1 ∧ t.seq.phase = .conv) := by
  cases h with
  | queueDone hp ha => exact .inr (.inl ⟨rfl, hp, ha, rfl, rfl⟩)
  | lastWaitDone hp ha hb => exact .inr (.inr ⟨rfl, hp, ha, hb, rfl⟩)
  | _ => exact .inl rfl

/-- Acceptance leaves the ring, but that REQCAP makes CAP_INDEX the active index when there are slots (R143). -/
theorem Accepted.ring_writers {s t : State} (h : Accepted s t) :
    t.ring = s.ring
      ∨ (t.ring = { s.ring with activeIndex := s.ring.capIndex } ∧ s.cfg.frameCount ≠ 0) := by
  cases h with
  | reqcap hf =>
    rw [reselectChannel_eq]
    exact .inr ⟨rfl, hf⟩
  | _ => exact .inl rfl

/-- The writers of the ring (R21 to R23, R31). -/
inductive RingMove (s : State) (e : Event) (t : State) : Prop where
  | kept (hr : t.ring = s.ring) (hc : t.cfg.frameCount = s.cfg.frameCount)
  | reset (d : Bool) (he : e = .reset d) (hr : t.ring = { capIndex := 0, syncIndex := 0, activeIndex := 0 })
  | cleared (v : Word) (he : e = .hostWrite 32 0x18 v) (hp : s.seq.phase = .idle)
      (hr : t.ring = { capIndex := 0, syncIndex := 0, activeIndex := 0 })
  | activated (hr : t.ring = { s.ring with activeIndex := s.ring.capIndex }) (hc : t.cfg = s.cfg)
      (hf : s.cfg.frameCount ≠ 0)
  | capAdvanced (hr : t.ring = { s.ring with capIndex := advanceIndex s.ring.capIndex s.cfg.frameCount })
      (hc : t.cfg = s.cfg) (hp : s.seq.phase = .rqQ) (ha : s.chan.answer = some .ok) (hi : t.seq.phase = .idle)
      (herr : t.status.err = 0)
  | syncAdvanced (hr : t.ring = { s.ring with syncIndex := advanceIndex s.ring.syncIndex s.cfg.frameCount })
      (hc : t.cfg = s.cfg) (hp : s.seq.phase = .awW) (ha : s.chan.answer = some .ok) (hb : s.seq.burstLeft ≤ 1)
      (hi : t.seq.phase = .conv)

theorem EventMove.ring_writers {s t : State} {e : Event} (h : EventMove s e t) : RingMove s e t := by
  cases h with
  | engine h =>
    rcases h.ring_writers with hr | ⟨hr, hp, ha, hi, herr⟩ | ⟨hr, hp, ha, hb, hi⟩
    · exact .kept hr (by rw [h.frame.cfg])
    · exact .capAdvanced hr h.frame.cfg hp ha hi herr
    · exact .syncAdvanced hr h.frame.cfg hp ha hb hi
  | command _ _ h =>
    rcases h.ring_writers with hr | ⟨hr, hf⟩
    · exact .kept hr (by rw [h.frame.cfg])
    · exact .activated hr h.frame.cfg hf
  | write offset v _ =>
    rcases writeReg_cases s (Reg.ofOffset offset) v with h | ⟨-, -, h⟩ | ⟨-, h⟩ | ⟨hp, -, h⟩
    · rw [h]; exact .kept rfl rfl
    · rw [h]; exact .kept rfl rfl
    · rw [h]; exact .kept rfl rfl
    · rw [h]
      rcases (writeConfig_eq s (Reg.ofOffset offset) v).2 with ⟨hr, hc⟩ | ⟨hreg, hr⟩
      · exact .kept hr hc
      · obtain rfl := (ofOffset_eq_frameCount_iff offset).1 hreg
        exact .cleared v rfl hp hr
  | read => rw [readReg_eq]; exact .kept rfl rfl
  | readScratch _ h => rw [hostReadScratchByte_eq h]; exact .kept rfl rfl
  | readDevbuf => rw [hostReadDevbufByte_eq]; exact .kept rfl rfl
  | reset d _ => exact .reset d rfl rfl
  | _ => exact .kept rfl rfl

/-- The tables and LUT_VALID are written by the build step and by reset (R46, R261). -/
theorem EventMove.lut_writers {s t : State} {e : Event} (h : EventMove s e t) :
    (t.lut = s.lut ∧ t.status.lutValid = s.status.lutValid)
      ∨ (s.seq.phase = .lutB ∧ t.lut = builtTables)
      ∨ (∃ d, e = .reset d) ∧ t.status.lutValid = false := by
  cases h with
  | engine h =>
    cases h with
    | build hp => exact .inr (.inl ⟨hp, rfl⟩)
    | _ => exact .inl ⟨rfl, rfl⟩
  | command _ _ h =>
    cases h with
    | reqcap => rw [reselectChannel_eq]; exact .inl ⟨rfl, rfl⟩
    | _ => exact .inl ⟨rfl, rfl⟩
  | write => rw [writeReg_eq]; exact .inl ⟨rfl, rfl⟩
  | read => rw [readReg_eq]; exact .inl ⟨rfl, rfl⟩
  | readScratch _ h => rw [hostReadScratchByte_eq h]; exact .inl ⟨rfl, rfl⟩
  | readDevbuf => rw [hostReadDevbufByte_eq]; exact .inl ⟨rfl, rfl⟩
  | reset d _ => exact .inr (.inr ⟨⟨d, rfl⟩, rfl⟩)
  | _ => exact .inl ⟨rfl, rfl⟩

/-- OVR is cleared by reset and by a write of 1 to its bit of STATUS, by nothing else (R26). -/
theorem EventMove.ovr_writers {s t : State} {e : Event} (h : EventMove s e t) (ho : s.status.ovr = true) :
    t.status.ovr = true ∨ (∃ d, e = .reset d) ∨ ∃ v, e = .hostWrite 32 0x04 v ∧ v.getLsbD 4 = true := by
  cases h with
  | engine h => exact .inl (h.frame.ovr.trans ho)
  | command _ _ h => exact .inl (h.frame.ovr.trans ho)
  | droppedCommand => exact .inl rfl
  | write offset v _ =>
    rcases writeReg_cases s (Reg.ofOffset offset) v with h | ⟨hreg, hv, -⟩ | ⟨-, h⟩ | ⟨-, -, h⟩
    · exact .inl (by rw [h, ho])
    · obtain rfl := (ofOffset_eq_status_iff offset).1 hreg
      exact .inr (.inr ⟨v, rfl, hv⟩)
    · exact .inl (by rw [h]; rfl)
    · exact .inl (by rw [h, (writeConfig_eq ..).1, ho])
  | read => rw [readReg_eq]; exact .inl ho
  | readScratch _ h => rw [hostReadScratchByte_eq h]; exact .inl ho
  | readDevbuf => rw [hostReadDevbufByte_eq]; exact .inl ho
  | reset d _ => exact .inr (.inl ⟨d, rfl⟩)
  | _ => exact .inl ho

/-- DEVBUF is written by the device only; old values of its bytes come from the device's writes and go with the answers to
WAIT_SYNC (R60, R75). -/
theorem EventMove.devbuf_writers {s t : State} {e : Event} (h : EventMove s e t) :
    (t.devbuf = s.devbuf ∧ ∀ c ∈ t.stale, c ∈ s.stale) ∨ ∃ a b, e = .deviceWrite a b ∧ t = s.deviceWriteByte a b := by
  have same : ∀ {u : State}, u.devbuf = s.devbuf → u.stale = s.stale →
      u.devbuf = s.devbuf ∧ ∀ c ∈ u.stale, c ∈ s.stale := fun hd hs => ⟨hd, fun c hc => hs ▸ hc⟩
  cases h with
  | engine h => exact .inl (same h.frame.devbuf h.frame.stale)
  | command _ _ h => exact .inl (same h.frame.devbuf h.frame.stale)
  | write => rw [writeReg_eq]; exact .inl (same rfl rfl)
  | read => rw [readReg_eq]; exact .inl (same rfl rfl)
  | readScratch _ h => rw [hostReadScratchByte_eq h]; exact .inl (same rfl rfl)
  | readDevbuf => rw [hostReadDevbufByte_eq]; exact .inl (same rfl rfl)
  | answer a r => exact .inl ⟨rfl, fun c hc => mem_of_mem_staleAfter hc⟩
  | deviceWrite a b => exact .inr ⟨a, b, rfl, rfl⟩
  | droppedCommand => exact .inl (same rfl rfl)
  | reset => exact .inl (same rfl rfl)

/-- What the host may still see of SCRATCH is forgotten by reset and by a read of STATUS that returns DONE = 1 (R76). -/
theorem EventMove.older_writers {s t : State} {e : Event} (h : EventMove s e t) :
    s.host.olderScratch <:+ t.host.olderScratch ∨ (∃ d, e = .reset d)
      ∨ (s.status.done = true ∧ e = .hostRead 32 0x04) := by
  cases h with
  | engine h => exact .inl h.frame.older
  | command _ _ h => exact .inl h.frame.older
  | write => rw [writeReg_eq]; exact .inl List.suffix_rfl
  | read offset =>
    unfold State.readReg
    split_ifs with hw hs
    · exact .inl List.suffix_rfl
    · obtain rfl := (ofOffset_eq_status_iff offset).1 hs.1
      exact .inr (.inr ⟨hs.2, rfl⟩)
    · exact .inl List.suffix_rfl
  | readScratch a h =>
    obtain ⟨-, rfl⟩ := hostReadScratchByte_next h
    exact .inl (by rw [State.replyRacing_olderScratch])
  | readDevbuf => exact .inl (by rw [State.hostReadDevbufByte_olderScratch])
  | reset d _ => exact .inr (.inl ⟨d, rfl⟩)
  | _ => exact .inl List.suffix_rfl

end Sys2Proof.Machine
end

section
/-! SUPPORT. The rules that hold of every step from every state: the ring in range, and who may change DEVBUF, the
configuration, OVR and the two indices (10_state.md R21, R22, R24, R26, R44; 20_memory.md R60). -/

namespace Sys2Proof.Machine

open Sys2Proof.Safety

/-- The event of a step that is not a turn of the engine is the first of the agenda. -/
theorem agenda_of_move {s : State} {e : Event} {rest : List Event} (h : e = .engine ∨ s.agenda = e :: rest)
    (he : e ≠ .engine) : s.agenda = e :: rest := h.resolve_left he

/-! ### The ring -/

/-- Indices that are all 0 are in range of any number of slots. -/
theorem ringInRange_of_zero {s : State} (h : s.ring = { capIndex := 0, syncIndex := 0, activeIndex := 0 }) :
    ringInRange s := by
  unfold ringInRange
  split
  · exact h
  · next hf =>
    have hpos : 0 < s.cfg.frameCount := (BitVec.pos_iff_ne_zero _).2 hf
    rw [h]
    exact ⟨hpos, hpos, hpos⟩

/-- Where there are slots the invariant is its three comparisons (R24). -/
theorem ringInRange_iff_of_slots {s : State} (hf : s.cfg.frameCount ≠ 0) :
    ringInRange s ↔ s.ring.capIndex < s.cfg.frameCount ∧ s.ring.syncIndex < s.cfg.frameCount
      ∧ s.ring.activeIndex < s.cfg.frameCount := by
  rw [ringInRange, if_neg hf]

/-- Where there are none the invariant says that all indices are 0 (R24). -/
theorem ringInRange_iff_of_noSlots {s : State} (hf : s.cfg.frameCount = 0) :
    ringInRange s ↔ s.ring = { capIndex := 0, syncIndex := 0, activeIndex := 0 } := by
  rw [ringInRange, if_pos hf]

/-- Every writer of the ring keeps it in range (R24). -/
theorem RingMove.keeps_ringInRange {s t : State} {e : Event} (h : RingMove s e t) (hs : ringInRange s) :
    ringInRange t := by
  cases h with
  | kept hr hc => unfold ringInRange at *; rwa [hr, hc]
  | reset _ _ hr => exact ringInRange_of_zero hr
  | cleared _ _ _ hr => exact ringInRange_of_zero hr
  | activated hr hc hf =>
    obtain ⟨hcap, hsync, -⟩ := (ringInRange_iff_of_slots hf).1 hs
    rw [ringInRange_iff_of_slots (hc ▸ hf), hr, hc]
    exact ⟨hcap, hsync, hcap⟩
  | capAdvanced hr hc =>
    by_cases hf : s.cfg.frameCount = 0
    · exact ringInRange_of_zero (by rw [hr, hf, advanceIndex_zero, (ringInRange_iff_of_noSlots hf).1 hs])
    · obtain ⟨-, hsync, hactive⟩ := (ringInRange_iff_of_slots hf).1 hs
      rw [ringInRange_iff_of_slots (hc ▸ hf), hr, hc]
      exact ⟨advanceIndex_lt hf, hsync, hactive⟩
  | syncAdvanced hr hc =>
    by_cases hf : s.cfg.frameCount = 0
    · exact ringInRange_of_zero (by rw [hr, hf, advanceIndex_zero, (ringInRange_iff_of_noSlots hf).1 hs])
    · obtain ⟨hcap, -, hactive⟩ := (ringInRange_iff_of_slots hf).1 hs
      rw [ringInRange_iff_of_slots (hc ▸ hf), hr, hc]
      exact ⟨hcap, advanceIndex_lt hf, hactive⟩

/-- Settles O49: every step is one of the writers of the ring, each of which keeps it in range. -/
theorem stepKeepsRingInRange : Obligations.StepKeepsRingInRange := by
  refine ⟨ringInRange_of_zero rfl, fun s t hs h => ?_⟩
  obtain ⟨e, rest, -, hm⟩ := step_move h
  exact hm.ring_writers.keeps_ringInRange hs

/-- Settles O54: of the writers of the ring three change CAP_INDEX. -/
theorem capIndexWriters : Obligations.CapIndexWriters := by
  intro s t h hne
  obtain ⟨e, rest, he, hm⟩ := step_move h
  cases hm.ring_writers with
  | kept hr => exact absurd (congrArg Ring.capIndex hr) hne
  | reset d hd => subst hd; exact .inl ⟨d, rest, agenda_of_move he nofun⟩
  | cleared v hv hp => subst hv; exact .inr (.inl ⟨v, rest, agenda_of_move he nofun, hp⟩)
  | activated hr => exact absurd (congrArg Ring.capIndex hr) hne
  | capAdvanced _ _ hp ha hi herr => exact .inr (.inr ⟨hp, ha, hi, herr⟩)
  | syncAdvanced hr => exact absurd (congrArg Ring.capIndex hr) hne

/-- Settles O55: of the writers of the ring three change SYNC_INDEX. -/
theorem syncIndexWriters : Obligations.SyncIndexWriters := by
  intro s t h hne
  obtain ⟨e, rest, he, hm⟩ := step_move h
  cases hm.ring_writers with
  | kept hr => exact absurd (congrArg Ring.syncIndex hr) hne
  | reset d hd => subst hd; exact .inl ⟨d, rest, agenda_of_move he nofun⟩
  | cleared v hv hp => subst hv; exact .inr (.inl ⟨v, rest, agenda_of_move he nofun, hp⟩)
  | activated hr => exact absurd (congrArg Ring.syncIndex hr) hne
  | capAdvanced hr => exact absurd (congrArg Ring.syncIndex hr) hne
  | syncAdvanced _ _ hp ha hb hi => exact .inr (.inr ⟨hp, ha, hb, hi⟩)

/-! ### The other parts -/

/-- Settles O50: only a device write touches DEVBUF, and no other step adds an old value. -/
theorem onlyTheDeviceWritesDevbuf : Obligations.OnlyTheDeviceWritesDevbuf := by
  intro s t h hnot
  obtain ⟨e, rest, he, hm⟩ := step_move h
  rcases hm.devbuf_writers with ⟨hd, hstale⟩ | ⟨a, b, rfl, -⟩
  · exact ⟨fun a => by rw [hd], hstale⟩
  · exact absurd (agenda_of_move he nofun) (hnot a b rest)

/-- Settles O51: the writers of the configuration, with the nine offsets of a configuration register. -/
theorem onlyIdleHostWritesChangeConfiguration : Obligations.OnlyIdleHostWritesChangeConfiguration := by
  intro s t h hne
  obtain ⟨e, rest, he, hm⟩ := step_move h
  rcases hm.cfg_writers with hc | ⟨d, rfl⟩ | ⟨hp, offset, v, rfl, hconfig, -⟩
  · exact absurd hc hne
  · exact .inl ⟨d, rest, agenda_of_move he nofun⟩
  · exact .inr ⟨hp, offset, v, rest, agenda_of_move he nofun, mem_of_isConfig_ofOffset hconfig⟩

/-- Settles O53: the writers of OVR. -/
theorem ovrClearedOnlyByHostOrReset : Obligations.OvrClearedOnlyByHostOrReset := by
  intro s t h hset hclear
  obtain ⟨e, rest, he, hm⟩ := step_move h
  rcases hm.ovr_writers hset with hkept | ⟨d, rfl⟩ | ⟨v, rfl, hv⟩
  · exact absurd (hkept.symm.trans hclear) nofun
  · exact .inl ⟨d, rest, agenda_of_move he nofun⟩
  · exact .inr ⟨v, rest, agenda_of_move he nofun, hv⟩

end Sys2Proof.Machine
end

section
/-! SUPPORT. The invariant: it holds at reset, every step keeps it, and from a state that meets it no engine step faults
(10_state.md R24, R26, R38, R46; 20_memory.md R60, R61, R70). -/

namespace Sys2Proof.Safety

open Sys2Proof.Machine

/-! ### The parts of the invariant -/

/-- In phase IDLE the invariant asks nothing of the sequencer, an empty channel, and of the flags only what a finished
command leaves. -/
theorem inv_of_idle {t : State} (hp : t.seq.phase = .idle) (ring : ringInRange t)
    (done : t.status.err ≠ 0 → t.status.done = true) (err : t.status.err.toNat ≤ 5)
    (out : t.status.outValid = false → t.out = .zero) (tables : tablesBuilt t)
    (channel : t.chan.outstanding = none ∧ t.chan.answer = none) (memories : memoriesLegal t) : Inv t where
  ring := ring
  status := ⟨fun hb => by simp [State.busy, hp] at hb, done, err, out⟩
  tables := tables
  channel := by simpa only [channelMatchesPhase, hp] using channel
  sequencer := by simp only [sequencerLegal, hp]
  memories := memories

/-- A phase that waits for no answer has an empty channel (R38). -/
theorem Inv.channel_empty {s : State} (h : Inv s) (hp : s.seq.phase = .idle ∨ s.seq.phase = .lutB ∨ s.seq.phase = .conv) :
    s.chan.outstanding = none ∧ s.chan.answer = none := by
  have hc := h.channel
  unfold channelMatchesPhase at hc
  rcases hp with hp | hp | hp <;> rw [hp] at hc <;> exact hc

/-- While a command runs DONE and ERR are clear (R96). -/
theorem Inv.running {s : State} (h : Inv s) {p : Phase} (hp : s.seq.phase = p) (hne : p ≠ .idle) :
    s.status.done = false ∧ s.status.err = 0 :=
  h.status.1 (by simpa [State.busy, hp] using hne)

/-- While AWAIT waits its checks hold and waits are left (R38, R39). -/
theorem Inv.awaiting {s : State} (h : Inv s) (hp : s.seq.phase = .awW ∨ s.seq.phase = .awQ) :
    conversionLegal s ∧ 1 ≤ s.seq.burstLeft ∧ s.seq.burstLeft ≤ s.cfg.capturesPerFrame.toNat := by
  have hs := h.sequencer
  unfold sequencerLegal at hs
  rcases hp with hp | hp <;> rw [hp] at hs <;> exact hs

/-- While a conversion runs its checks hold and its slot exists (R38, R39). -/
theorem Inv.converting {s : State} (h : Inv s) (hp : s.seq.phase = .conv) :
    conversionLegal s ∧ s.seq.convSlot < s.cfg.frameCount.toNat := by
  have hs := h.sequencer
  unfold sequencerLegal at hs
  rwa [hp] at hs

/-- The tables are not built while BUILD_LUT runs (R120). -/
theorem Inv.building {s : State} (h : Inv s) (hp : s.seq.phase = .lutB) : s.status.lutValid = false := by
  have hs := h.sequencer
  unfold sequencerLegal at hs
  rwa [hp] at hs

/-- The flags right after acceptance agree with BUSY, whatever becomes of the output (R96). -/
theorem statusConsistent_of_accepted {t : State} (hd : t.status.done = false) (he : t.status.err = 0)
    (out : t.status.outValid = false → t.out = .zero) : statusConsistent t :=
  ⟨fun _ => ⟨hd, he⟩, fun hne => absurd he hne, by simp [he], out⟩

/-! ### The memories -/

/-- An image that fits SCRATCH keeps the memories canonical, the contents it replaces among those the host may still see
(R61, R76). -/
theorem memoriesLegal_scratchResult {s : State} {f : PixelFormat} (h : memoriesLegal s)
    (hu : usesScratch f s.cfg.bgrInvert = true) (hf : s.fits f) : memoriesLegal (s.scratchResult f (s.imageOf f)) := by
  obtain ⟨hwf, hdwf, hbound, hdbound, holder, hstale⟩ := h
  have hlen : 0 + (s.imageOf f).length ≤ Config.scratchCap := by
    rw [Nat.zero_add, imageOf_length hu]
    exact (scratchCap_iff _).2 hf.1
  refine ⟨Memory.writeBytes_wf 0 _ hwf, hdwf, Memory.writeBytes_bounded _ hbound hlen, hdbound, fun m hm => ?_, hstale⟩
  rcases List.mem_cons.1 hm with rfl | hm
  · exact ⟨hwf, hbound⟩
  · exact holder m hm

/-- A device write keeps the memories canonical: its address has 32 bits (R60). -/
theorem memoriesLegal_deviceWriteByte {s : State} (h : memoriesLegal s) (a : Word) (b : Byte) :
    memoriesLegal (s.deviceWriteByte a b) := by
  obtain ⟨hwf, hdwf, hbound, hdbound, holder, hstale⟩ := h
  refine ⟨hwf, Memory.write_wf _ _ hdwf, hbound, Memory.write_bounded b hdbound a.isLt, holder, fun c hc => ?_⟩
  rcases List.mem_cons.1 hc with rfl | hc
  · exact a.isLt
  · exact hstale c hc

/-- What the host has seen matters to the memories only by the contents of SCRATCH it may still see. -/
theorem memoriesLegal_of_host {s t : State} (h : memoriesLegal s) (ht : t = { s with host := t.host })
    (holder : ∀ m ∈ t.host.olderScratch, m ∈ s.host.olderScratch) : memoriesLegal t := by
  obtain ⟨hwf, hdwf, hbound, hdbound, hsOlder, hstale⟩ := h
  rw [ht]
  exact ⟨hwf, hdwf, hbound, hdbound, fun m hm => hsOlder m (holder m hm), hstale⟩

/-! ### Changes that keep the invariant -/

/-- Every failure code is one of R230's. -/
theorem errorCode_le (e : ErrorCode) : e.code.toNat ≤ 5 := by cases e <;> decide

/-- A command's end in failure keeps the invariant, once its request is answered (R236). -/
theorem Inv.raise_takeAnswer {s : State} (h : Inv s) (e : ErrorCode) : Inv (s.takeAnswer.raise e) :=
  inv_of_idle rfl h.ring (fun _ => rfl) (errorCode_le e) h.status.2.2.2 h.tables ⟨rfl, rfl⟩ h.memories

/-- A command refused at acceptance keeps the invariant (R236). -/
theorem Inv.raise_acceptWord {s : State} (h : Inv s) (hp : s.seq.phase = .idle) (e : ErrorCode) :
    Inv (s.acceptWord.raise e) :=
  inv_of_idle rfl h.ring (fun _ => rfl) (errorCode_le e) h.status.2.2.2 h.tables (h.channel_empty (.inl hp))
    h.memories

/-- OVR is a flag of the host's alone: no part of the invariant looks at it. -/
theorem Inv.set_ovr {s : State} (h : Inv s) (b : Bool) : Inv { s with status := { s.status with ovr := b } } :=
  ⟨h.ring, h.status, h.tables, h.channel, h.sequencer, h.memories⟩

/-- The events to come are no part of the invariant. -/
theorem Inv.set_agenda {s : State} (h : Inv s) (rest : List Event) : Inv { s with agenda := rest } :=
  ⟨h.ring, h.status, h.tables, h.channel, h.sequencer, h.memories⟩

/-- A change to what the host has seen keeps the invariant as long as it shows no other contents of SCRATCH. -/
theorem Inv.set_host {s t : State} (h : Inv s) (ht : t = { s with host := t.host })
    (holder : ∀ m ∈ t.host.olderScratch, m ∈ s.host.olderScratch) : Inv t := by
  have hmem := memoriesLegal_of_host h.memories ht holder
  rw [ht] at hmem ⊢
  exact ⟨h.ring, h.status, h.tables, h.channel, h.sequencer, hmem⟩

/-- A configuration write in phase IDLE keeps the invariant, which there rests on no register but FRAME_COUNT (R31). -/
theorem Inv.writeConfig {s : State} (h : Inv s) (hp : s.seq.phase = .idle) {r : Reg} {v : Word}
    (hring : ringInRange (s.writeConfig r v)) : Inv (s.writeConfig r v) := by
  rw [(writeConfig_eq s r v).1] at hring ⊢
  exact inv_of_idle hp hring h.status.2.1 h.status.2.2.1 h.status.2.2.2 h.tables (h.channel_empty (.inl hp)) h.memories

/-- An answer keeps the invariant: it comes to a phase that waits for one (R70). -/
theorem Inv.answered {s : State} (h : Inv s) {r : DevRequest} (ho : s.chan.outstanding = some r) (a : DevAnswer) :
    Inv { s with
      stale := s.staleAfter r a
      chan := { s.chan with answer := some a, log := .answered r a :: s.chan.log } } := by
  obtain ⟨hwf, hdwf, hbound, hdbound, holder, hstale⟩ := h.memories
  refine ⟨h.ring, h.status, h.tables, ?_, h.sequencer,
    ⟨hwf, hdwf, hbound, hdbound, holder, fun c hc => hstale c (mem_of_mem_staleAfter hc)⟩⟩
  have hc := h.channel
  unfold channelMatchesPhase at hc ⊢
  cases hp : s.seq.phase <;> simp_all

/-- Reset meets the invariant: the engine is idle, nothing is outstanding, and DEVBUF is the device's (R49, R260). -/
theorem Inv.resetEngine {s : State} (h : Inv s) : Inv s.resetEngine := by
  obtain ⟨-, hdwf, -, hdbound, -, hstale⟩ := h.memories
  exact inv_of_idle rfl (ringInRange_of_zero rfl) (fun hne => absurd rfl hne) (Nat.zero_le 5) (fun _ => rfl) nofun ⟨rfl, rfl⟩
    ⟨.nil, hdwf, nofun, hdbound, nofun, hstale⟩

end Sys2Proof.Safety

namespace Sys2Proof.Machine

open Sys2Proof.Safety

/-! ### The moves of the engine -/

/-- Every step keeps the tables as built while LUT_VALID is 1. -/
theorem EventMove.keeps_tablesBuilt {s t : State} {e : Event} (h : EventMove s e t) (hs : tablesBuilt s) :
    tablesBuilt t := by
  intro hv
  rcases h.lut_writers with ⟨hl, hlv⟩ | ⟨-, hl⟩ | ⟨-, hlv⟩
  · exact hl.trans (hs (hlv ▸ hv))
  · exact hl
  · exact absurd (hv.symm.trans hlv) nofun

/-- A turn of the engine keeps the invariant: an end leaves the engine idle with an empty channel; the moves between the
phases of AWAIT issue the request that the new phase waits for, or start the conversion that the checks allow. -/
theorem EngineMove.keeps_inv {s t : State} (hm : EngineMove s t) (h : Inv s) : Inv t := by
  have hring : ringInRange t := (EventMove.engine hm).ring_writers.keeps_ringInRange h.ring
  have htables : tablesBuilt t := (EventMove.engine hm).keeps_tablesBuilt h.tables
  cases hm with
  | nothing => exact h
  | noAnswer => exact h
  | build hp =>
    exact inv_of_idle rfl hring (fun _ => rfl) (Nat.zero_le 5) h.status.2.2.2 htables
      (h.channel_empty (.inr (.inl hp))) h.memories
  | queueFailed => exact h.raise_takeAnswer .queue
  | waitFailed => exact h.raise_takeAnswer .wait
  | requeueFailed => exact h.raise_takeAnswer .queue
  | queueDone =>
    exact inv_of_idle rfl hring (fun _ => rfl) (Nat.zero_le 5) h.status.2.2.2 htables ⟨rfl, rfl⟩ h.memories
  | requeued hp _ hb =>
    obtain ⟨hlegal, -, hle⟩ := h.awaiting (.inl hp)
    exact ⟨hring, ⟨fun _ => h.running hp nofun, h.status.2⟩, htables, rfl,
      ⟨hlegal, Nat.le_sub_one_of_lt hb, (Nat.sub_le _ _).trans hle⟩, h.memories⟩
  | requeueDone hp =>
    exact ⟨hring, ⟨fun _ => h.running hp nofun, h.status.2⟩, htables, rfl, h.awaiting (.inr hp), h.memories⟩
  | lastWaitDone hp =>
    obtain ⟨hlegal, -⟩ := h.awaiting (.inl hp)
    obtain ⟨-, hsync, -⟩ := (ringInRange_iff_of_slots hlegal.2.1).1 h.ring
    exact ⟨hring, ⟨fun _ => h.running hp nofun, h.status.2⟩, htables, ⟨rfl, rfl⟩, ⟨hlegal, hsync⟩, h.memories⟩
  | image hp hu hf =>
    exact inv_of_idle rfl hring (fun _ => rfl) (Nat.zero_le 5) nofun htables (h.channel_empty (.inr (.inr hp)))
      (memoriesLegal_scratchResult h.memories hu hf)
  | view hp =>
    exact inv_of_idle rfl hring (fun _ => rfl) (Nat.zero_le 5) nofun htables (h.channel_empty (.inr (.inr hp))) h.memories

/-! ### The acceptance of a command -/

/-- The acceptance of a command in phase IDLE keeps the invariant: each check that it has passed is what the invariant asks of
the phase it enters. -/
theorem Accepted.keeps_inv {s t : State} (hm : Accepted s t) (hp : s.seq.phase = .idle) (h : Inv s) : Inv t := by
  have hmove : EventMove s (.hostWrite 32 0x00 0) t := .command 0 hp hm
  have hring : ringInRange t := hmove.ring_writers.keeps_ringInRange h.ring
  have htables : tablesBuilt t := hmove.keeps_tablesBuilt h.tables
  cases hm with
  | illegal => exact h.raise_acceptWord hp .illegal
  | refused e => exact h.raise_acceptWord hp e
  | buildLut hlut =>
    exact ⟨hring, statusConsistent_of_accepted rfl rfl h.status.2.2.2, htables, h.channel_empty (.inl hp), hlut, h.memories⟩
  | reqcap hf =>
    rw [reselectChannel_eq] at *
    exact ⟨hring, statusConsistent_of_accepted rfl rfl h.status.2.2.2, htables, rfl, hf, h.memories⟩
  | await hcheck =>
    obtain ⟨hlut, hf, hcpf, hregion, hgeometry⟩ := awaitCheck_none hcheck
    have hpos : 1 ≤ s.cfg.capturesPerFrame.toNat := (BitVec.pos_iff_ne_zero _).2 hcpf
    exact ⟨hring, statusConsistent_of_accepted rfl rfl fun _ => rfl, htables, rfl,
      ⟨⟨hlut, hf, hregion, hgeometry, rfl⟩, hpos, Nat.le_refl _⟩, h.memories⟩
  | convert slot hcheck =>
    obtain ⟨hlut, hf, hslot, hregion, hgeometry⟩ := convertCheck_none hcheck
    exact ⟨hring, statusConsistent_of_accepted rfl rfl fun _ => rfl, htables, h.channel_empty (.inl hp),
      ⟨⟨hlut, hf, hregion, hgeometry, rfl⟩, hslot⟩, h.memories⟩

/-! ### Every event -/

/-- A read of a register shows the host no contents of SCRATCH that it could not see before. -/
theorem mem_olderScratch_readReg {s : State} {r : Reg} {m : Memory} (h : m ∈ (s.readReg r).host.olderScratch) :
    m ∈ s.host.olderScratch := by
  unfold State.readReg at h
  split_ifs at h
  · exact h
  · exact absurd h nofun
  · exact h

/-- Every event keeps the invariant. -/
theorem EventMove.keeps_inv {s t : State} {e : Event} (hm : EventMove s e t) (h : Inv s) : Inv t := by
  have hring : ringInRange t := hm.ring_writers.keeps_ringInRange h.ring
  cases hm with
  | engine hm => exact hm.keeps_inv h
  | command _ hp hm => exact hm.keeps_inv hp h
  | droppedCommand => exact h.set_ovr true
  | write offset v _ =>
    rcases writeReg_cases s (Reg.ofOffset offset) v with hw | ⟨-, -, hw⟩ | ⟨-, hw⟩ | ⟨hp, -, hw⟩
    · rw [hw]; exact h
    · rw [hw]; exact h.set_ovr false
    · rw [hw]; exact h.set_ovr true
    · rw [hw] at hring ⊢; exact h.writeConfig hp hring
  | read offset => exact h.set_host (readReg_eq ..) fun m hm => mem_olderScratch_readReg hm
  | readScratch a hr =>
    refine h.set_host (hostReadScratchByte_eq hr) fun m hm => ?_
    obtain ⟨-, rfl⟩ := hostReadScratchByte_next hr
    rwa [State.replyRacing_olderScratch] at hm
  | readDevbuf a =>
    exact h.set_host (hostReadDevbufByte_eq ..) fun m hm => by rwa [State.hostReadDevbufByte_olderScratch] at hm
  | answer a r ho _ => exact h.answered ho a
  | deviceWrite a b =>
    exact ⟨h.ring, h.status, h.tables, h.channel, h.sequencer, memoriesLegal_deviceWriteByte h.memories a b⟩
  | reset => exact h.resetEngine

/-! ### No engine step faults -/

/-- From a state that meets the invariant a turn of the engine has a next state: a kernel's image and input fit by what
acceptance has checked (R170, R171). -/
theorem engineTurn_completes {s : State} (h : Inv s) : ∃ t, runTurn s.engineTurn = .next t := by
  unfold State.engineTurn State.running runTurn
  cases hp : s.seq.phase
  case conv =>
    obtain ⟨hlegal, hslot⟩ := h.converting hp
    exact exec_kernel_completes (f := s.format) (fits_of_legal hlegal hslot)
  case idle => exact ⟨_, rfl⟩
  all_goals exact ⟨_, by simp only [exec, execBuildLut, execReqcap, execAwait, hp]; rfl⟩

/-- In phase IDLE every command has a next state: acceptance refuses by an error code, not by a fault (R236). -/
theorem exec_command_completes {s : State} {w : Word} {i : Instr} (hp : s.seq.phase = .idle)
    (hd : decodeCommand w = .ok i) : ∃ t, exec i s = .next t := by
  rcases decodeCommand_cases hd with rfl | rfl | rfl | ⟨slot, rfl⟩
  · exact ⟨s.acceptBuildLut, by rw [exec, execBuildLut, hp]⟩
  · exact ⟨_, exec_reqcap_of_idle hp⟩
  · exact ⟨_, exec_await_of_idle hp⟩
  · exact ⟨_, exec_convert_of_idle hp slot⟩

/-- While IDLE a word that decodes runs as its instruction (R25, R96). -/
theorem commandTurn_of_ok {s : State} {w : Word} {i : Instr} (hp : s.seq.phase = .idle) (hd : decodeCommand w = .ok i) :
    s.commandTurn w = .run i s := by
  simp [State.commandTurn, State.busy, hp, hd]

/-- A word written to CMD has a next state whatever it is (R25, R96). -/
theorem commandTurn_completes (s : State) (w : Word) : ∃ t, runTurn (s.commandTurn w) = .next t := by
  by_cases hp : s.seq.phase = .idle
  · cases hd : decodeCommand w with
    | error => exact ⟨_, by rw [commandTurn_of_error hp hd, runTurn]⟩
    | ok i =>
      obtain ⟨t, ht⟩ := exec_command_completes hp hd
      exact ⟨t, by rw [commandTurn_of_ok hp hd, runTurn, ht]⟩
  · exact ⟨_, by rw [commandTurn_of_busy hp, runTurn]⟩

/-- The one event that faults from a state that meets the invariant is a host read beyond SCRATCH (R61, R243). -/
theorem eventTurn_fault {s : State} {e : Event} {r : Fault} (h : Inv s) (hf : runTurn (s.eventTurn e) = .fault r) :
    r = .scratchOutOfRange ∧ ∃ a, e = .hostReadScratch a ∧ Config.scratchCap ≤ a := by
  cases e with
  | engine =>
    obtain ⟨t, ht⟩ := engineTurn_completes h
    exact absurd (ht.symm.trans hf) nofun
  | hostWrite width offset v =>
    simp only [State.eventTurn, State.hostWriteTurn] at hf
    split at hf
    · exact absurd hf nofun
    · split at hf
      · obtain ⟨t, ht⟩ := commandTurn_completes s v
        exact absurd (ht.symm.trans hf) nofun
      · exact absurd hf nofun
  | hostRead width offset =>
    simp only [State.eventTurn, State.hostReadReg, runTurn] at hf
    split at hf <;> exact absurd hf nofun
  | hostReadScratch a =>
    simp only [State.eventTurn, State.hostReadScratchByte, runTurn] at hf
    split at hf
    · next hcap => exact ⟨(Host.Outcome.fault.inj hf).symm, a, rfl, Nat.not_lt.1 hcap⟩
    · exact absurd hf nofun
  | hostReadDevbuf => exact absurd hf nofun
  | deviceAnswer a =>
    simp only [State.eventTurn, State.deliverAnswer, runTurn] at hf
    split at hf <;> exact absurd hf nofun
  | deviceWrite => exact absurd hf nofun
  | reset down =>
    simp only [State.eventTurn, State.takeReset, runTurn] at hf
    split at hf <;> exact absurd hf nofun

/-! ### The statements -/

/-- Settles O46: the reset state is idle with everything clear. -/
theorem resetMeetsInvariant : Obligations.ResetMeetsInvariant :=
  inv_of_idle rfl (ringInRange_of_zero rfl) (fun hne => absurd rfl hne) (Nat.zero_le 5) (fun _ => rfl) nofun ⟨rfl, rfl⟩
    ⟨.nil, .nil, nofun, nofun, nofun, nofun⟩

/-- Settles O47: a step is the move of one event, and each event keeps the invariant. -/
theorem stepKeepsInvariant : Obligations.StepKeepsInvariant := by
  intro s t hs h
  obtain ⟨e, rest, -, hm⟩ := step_move h
  exact hm.keeps_inv (hs.set_agenda rest)

/-- Settles O48: with an empty agenda the engine's turn completes; otherwise the event decides. -/
theorem invariantExcludesEngineFaults : Obligations.InvariantExcludesEngineFaults := by
  intro s r hs hf
  cases ha : s.agenda with
  | nil =>
    obtain ⟨t, ht⟩ := engineTurn_completes hs
    exact absurd (ht.symm.trans ((step_of_nil ha).symm.trans hf)) nofun
  | cons e rest =>
    obtain ⟨hr, a, rfl, hcap⟩ := eventTurn_fault (hs.set_agenda rest) ((step_of_cons ha).symm.trans hf)
    exact ⟨hr, a, rest, rfl, hcap⟩

/-- Settles O52: of the two writers of the tables, reset is excluded and the build step runs only while LUT_VALID is 0. -/
theorem builtTablesLastUntilReset : Obligations.BuiltTablesLastUntilReset := by
  intro s t hs h hv hnot
  obtain ⟨e, rest, he, hm⟩ := step_move h
  rcases hm.lut_writers with ⟨hl, hlv⟩ | ⟨hp, -⟩ | ⟨⟨d, rfl⟩, -⟩
  · exact ⟨hlv.trans hv, hl⟩
  · exact absurd (hv.symm.trans (hs.building hp)) nofun
  · exact absurd (agenda_of_move he nofun) (hnot d rest)

end Sys2Proof.Machine
end

section
/-! SUPPORT. The race of the device with the reader stays inside the slots whose capture the device holds (20_memory.md R73,
R75; 70_reset_and_hazards.md R264, R267). -/

namespace Sys2Proof.Machine

open Sys2Proof.Safety

/-- Which addresses are queued rests on the captures held and on the registers that place the slots (R64). -/
theorem inQueuedSlot_congr {s t : State} (hq : queuedSlots t.chan.log = queuedSlots s.chan.log)
    (hf : t.cfg.frameCount = s.cfg.frameCount) (hb : t.cfg.regionBase = s.cfg.regionBase)
    (hz : t.cfg.regionSize = s.cfg.regionSize) (a : Nat) : inQueuedSlot t a ↔ inQueuedSlot s a := by
  simp only [inQueuedSlot, State.slotAddr, State.frameSize, hq, hf, hb, hz]

/-- A step that leaves the captures and the slots, and adds no old value, leaves the race where it was. -/
theorem raceOnlyWhereQueued_of_kept {s t : State} (h : raceOnlyWhereQueued s)
    (hq : queuedSlots t.chan.log = queuedSlots s.chan.log) (hf : t.cfg.frameCount = s.cfg.frameCount)
    (hb : t.cfg.regionBase = s.cfg.regionBase) (hz : t.cfg.regionSize = s.cfg.regionSize)
    (hstale : t.stale = s.stale) : raceOnlyWhereQueued t := fun c hc =>
  (inQueuedSlot_congr hq hf hb hz c.1).2 (h c (hstale ▸ hc))

/-- With nothing queued nothing races. -/
theorem stale_eq_nil_of_unqueued {s : State} (h : raceOnlyWhereQueued s) (hq : queuedSlots s.chan.log = []) :
    s.stale = [] := by
  refine List.eq_nil_iff_forall_not_mem.2 fun c hc => ?_
  obtain ⟨slot, hslot, -⟩ := h c hc
  rw [hq] at hslot
  exact absurd hslot nofun

theorem raceOnlyWhereQueued_of_nil {t : State} (h : t.stale = []) : raceOnlyWhereQueued t := fun c hc => by
  rw [h] at hc
  exact absurd hc nofun

/-- What the engine leaves alone suffices for the race to stay. -/
theorem EngineFrame.keeps_race {s t : State} (hf : EngineFrame s t) (h : raceOnlyWhereQueued s) :
    raceOnlyWhereQueued t :=
  raceOnlyWhereQueued_of_kept h hf.queue (by rw [hf.cfg]) (by rw [hf.cfg]) (by rw [hf.cfg]) hf.stale

/-- An answer takes a slot out of the queue only if it is the OK answer to the WAIT_SYNC of that slot (R73). -/
theorem mem_queuedSlots_answered {slot : SlotIndex} {log : List DevRecord} {r : DevRequest} {a : DevAnswer}
    (h : slot ∈ queuedSlots log) (hne : ¬ (a = .ok ∧ r = .waitSync slot)) :
    slot ∈ queuedSlots (.answered r a :: log) := by
  cases a with
  | fail => cases r <;> exact h
  | ok =>
    cases r with
    | selectChannel => exact h
    | queueCapture => exact List.mem_cons_of_mem _ h
    | waitSync other =>
      have hslot : slot ≠ other := fun heq => hne ⟨rfl, heq ▸ rfl⟩
      exact (List.mem_erase_of_ne hslot).2 h

/-- Of the configuration registers only FRAME_COUNT, REGION_BASE and REGION_SIZE place the slots (R63, R64). -/
theorem writeConfig_keeps_region (s : State) {r : Reg} (v : Word)
    (h : r ≠ .frameCount ∧ r ≠ .regionBase ∧ r ≠ .regionSize) :
    (s.writeConfig r v).cfg.frameCount = s.cfg.frameCount ∧ (s.writeConfig r v).cfg.regionBase = s.cfg.regionBase
      ∧ (s.writeConfig r v).cfg.regionSize = s.cfg.regionSize := by
  obtain ⟨hf, hb, hz⟩ := h
  cases r <;> simp_all [State.writeConfig]

/-- The three of them stand at 0x18, 0x1C and 0x20 (R45). -/
theorem ofOffset_region {offset : Nat} (hc : (Reg.ofOffset offset).isConfig = true) (h : offset ∉ [0x18, 0x1C, 0x20]) :
    Reg.ofOffset offset ≠ .frameCount ∧ Reg.ofOffset offset ≠ .regionBase ∧ Reg.ofOffset offset ≠ .regionSize := by
  have all : ∀ o ∈ [0x08, 0x0C, 0x10, 0x14, 0x18, 0x1C, 0x20, 0x24, 0x28], o ∉ [0x18, 0x1C, 0x20] →
      Reg.ofOffset o ≠ .frameCount ∧ Reg.ofOffset o ≠ .regionBase ∧ Reg.ofOffset o ≠ .regionSize := by decide
  exact all offset (mem_of_isConfig_ofOffset hc) h

/-- Every event keeps the race inside the queued slots: a device write that keeps to R73 races there, an OK answer settles
the slot it takes out of the queue, and the slots move only with nothing queued (R264). -/
theorem EventMove.keeps_race {s t : State} {e : Event} (hm : EventMove s e t) (h : raceOnlyWhereQueued s)
    (hdevice : ∀ a b, e = .deviceWrite a b → deviceMayWrite s a)
    (hring : ∀ offset v, e = .hostWrite 32 offset v → offset ∈ [0x18, 0x1C, 0x20] → hostMaySetRing s)
    (hreset : ∀ down, e = .reset down → queuedSlots s.chan.log = []) : raceOnlyWhereQueued t := by
  cases hm with
  | engine hm => exact hm.frame.keeps_race h
  | command _ _ hm => exact hm.frame.keeps_race h
  | droppedCommand => exact h
  | write offset v _ =>
    rcases writeReg_cases s (Reg.ofOffset offset) v with hw | ⟨-, -, hw⟩ | ⟨-, hw⟩ | ⟨-, hc, hw⟩
    · rw [hw]; exact h
    · rw [hw]; exact h
    · rw [hw]; exact h
    · have hframe := (writeConfig_eq s (Reg.ofOffset offset) v).1
      rw [hw]
      by_cases hoff : offset ∈ [0x18, 0x1C, 0x20]
      · have hnil : s.stale = [] := stale_eq_nil_of_unqueued h (hring offset v rfl hoff)
        exact raceOnlyWhereQueued_of_nil (by rw [hframe]; exact hnil)
      · obtain ⟨hf, hb, hz⟩ := writeConfig_keeps_region s v (ofOffset_region hc hoff)
        exact raceOnlyWhereQueued_of_kept h (by rw [hframe]) hf hb hz (by rw [hframe])
  | read => rw [readReg_eq]; exact h
  | readScratch _ hr => rw [hostReadScratchByte_eq hr]; exact h
  | readDevbuf => rw [hostReadDevbufByte_eq]; exact h
  | answer a r =>
    intro c hc
    obtain ⟨hold, hsettled⟩ := (mem_staleAfter_iff s r a c).1 hc
    obtain ⟨slot, hslot, hin⟩ := h c hold
    exact ⟨slot, mem_queuedSlots_answered hslot fun ⟨ha, hr⟩ => hsettled ⟨ha, slot, hr, hin⟩, hin⟩
  | deviceWrite a b =>
    intro c hc
    rcases List.mem_cons.1 hc with rfl | hc
    · exact hdevice a b rfl
    · exact h c hc
  | reset down =>
    have hnil : s.stale = [] := stale_eq_nil_of_unqueued h (hreset down rfl)
    exact raceOnlyWhereQueued_of_nil hnil

/-- A queued address lies in no slot that is not queued, since slots do not overlap (R64). -/
theorem not_inQueuedSlot {s : State} {slot : Nat} {k : Nat} (hs : BitVec.ofNat 8 slot ∉ queuedSlots s.chan.log)
    (hk : k < s.frameSize) : ¬ inQueuedSlot s (s.slotAddr slot + k) := by
  rintro ⟨other, hother, hin⟩
  have hsame : other.toNat = slot := slot_unique hin ⟨Nat.le_add_right _ _, Nat.add_lt_add_left hk _⟩
  rw [← hsame, BitVec.ofNat_toNat, BitVec.setWidth_eq] at hs
  exact hs hother

/-- Settles O57: the written address is queued and a slot that is not queued holds none such; the race stays queued by
`EventMove.keeps_race`, so no byte of an unqueued slot races. -/
theorem unqueuedSlotKeepsItsBytes : Obligations.UnqueuedSlotKeepsItsBytes := by
  refine ⟨fun s t slot addr b rest k ha hmay hslot hk h => ?_, raceOnlyWhereQueued_of_nil rfl,
    fun s t hrace h hdevice hring hreset => ?_, fun s k hrace hmay _ hk b hb => ?_⟩
  · obtain rfl := Host.Outcome.next.inj ((step_of_cons ha).symm.trans h)
    have hslot' : BitVec.ofNat 8 slot.toNat ∉ queuedSlots s.chan.log := by
      rwa [BitVec.ofNat_toNat, BitVec.setWidth_eq]
    exact Memory.read_write_other _ b fun heq => not_inQueuedSlot hslot' hk (heq ▸ hmay)
  · obtain ⟨e, rest, he, hm⟩ := step_move h
    refine hm.keeps_race hrace (fun a b heq => ?_) (fun offset v heq => ?_) (fun down heq => ?_)
    · subst heq; exact hdevice a b rest (agenda_of_move he nofun)
    · subst heq; exact hring offset v rest (agenda_of_move he nofun)
    · subst heq; exact hreset down rest (agenda_of_move he nofun)
  · exact not_inQueuedSlot hmay hk (hrace _ hb)

end Sys2Proof.Machine
end

section
/-! SUPPORT. What a step runs, and the host's accesses to REG: reads and writes of every register, refused accesses and the
table window (10_state.md R21 to R48). -/

namespace Sys2Proof.Machine

/-! ### What a step runs -/

/-- With an empty agenda, or the engine's turn next on it, a step is the engine's turn (log 1, log 3). -/
theorem step_of_engineTurn {s s' : State}
    (h : (s.agenda = [] ∧ s' = s) ∨ (∃ rest, s.agenda = .engine :: rest ∧ s' = { s with agenda := rest })) :
    step s = runTurn s'.engineTurn ∧ s'.seq = s.seq ∧ s'.cfg = s.cfg := by
  rcases h with ⟨hnil, rfl⟩ | ⟨rest, hcons, rfl⟩
  · exact ⟨step_of_nil hnil, rfl, rfl⟩
  · exact ⟨step_of_cons hcons, rfl, rfl⟩

/-- The engine's turn runs the instruction its phase enables (R38). -/
theorem runTurn_of_running {s : State} {i : Instr} (h : s.running = some i) : runTurn s.engineTurn = exec i s := by
  rw [State.engineTurn, h, runTurn]

/-- In phase IDLE no step is enabled (R275). -/
theorem runTurn_of_idle {s : State} (h : s.seq.phase = .idle) : runTurn s.engineTurn = .next s := by
  simp only [State.engineTurn, State.running, h, runTurn]

/-- Settles O6: the turn of a command word that decodes. -/
theorem stepRunsWrittenCommand : Obligations.StepRunsWrittenCommand := by
  intro s w rest i ha hp hd
  rw [step_of_commandWrite ha, commandTurn_of_ok (s := { s with agenda := rest }) hp hd, runTurn]

/-- Settles O7: the engine's turn, phase by phase. -/
theorem stepRunsWhatThePhaseEnables : Obligations.StepRunsWhatThePhaseEnables := by
  intro s s' h
  obtain ⟨hstep, hseq, hcfg⟩ := step_of_engineTurn h
  rw [hstep, ← hseq, ← hcfg]
  refine ⟨runTurn_of_idle, fun hp => ?_, fun hp => ?_, fun hp => ?_, fun hp i hi => ?_⟩
  · exact runTurn_of_running (by rw [State.running, hp])
  · exact runTurn_of_running (by rw [State.running, hp])
  · rcases hp with hp | hp <;> exact runTurn_of_running (by rw [State.running, hp])
  · obtain rfl : decodeTag s'.cfg.pixfmt = i := Except.ok.inj hi
    exact runTurn_of_running (by rw [State.running, hp])

/-! ### Register reads -/

/-- A defined read reads the register that the offset names (R41). -/
theorem step_of_registerRead {s : State} {offset : Nat} {rest : List Event} (h : s.agenda = .hostRead 32 offset :: rest)
    (h4 : offset % 4 = 0) : step s = .next (State.readReg { s with agenda := rest } (Reg.ofOffset offset)) := by
  rw [step_of_cons h, State.eventTurn, State.hostReadReg, if_neg (by simp [h4]), runTurn]

/-- A read outside the table window, but of STATUS, returns the register's value and changes nothing else (R41). -/
theorem readReg_plain {s : State} {r : Reg} (hw : r.isWindow = false) (hs : r ≠ .status) :
    s.readReg r = s.reply (s.regValue r) := by
  simp [State.readReg, hw, hs]

/-- The step of such a read. -/
theorem step_of_plainRead {s : State} {offset : Nat} {v : Word} {rest : List Event} {r : Reg}
    (h : s.agenda = .hostRead 32 offset :: rest) (h4 : offset % 4 = 0) (hr : Reg.ofOffset offset = r)
    (hw : r.isWindow = false) (hs : r ≠ .status) (hv : v = s.regValue r) :
    step s = .next { s with agenda := rest, host := { s.host with data := v } } := by
  rw [step_of_registerRead h h4, hr, readReg_plain hw hs, hv]
  cases r <;> rfl

/-- A read of the table window after BUILD_LUT returns the entry (R48). -/
theorem step_of_windowRead {s : State} {offset : Nat} {v : Word} {rest : List Event} {r : Reg}
    (h : s.agenda = .hostRead 32 offset :: rest) (hl : s.status.lutValid = true) (h4 : offset % 4 = 0)
    (hr : Reg.ofOffset offset = r) (hw : r.isWindow = true) (hv : v = s.regValue r) :
    step s = .next { s with agenda := rest, host := { s.host with data := v } } := by
  rw [step_of_registerRead h h4, hr, readReg_window (s := { s with agenda := rest }) hw hl, hv]
  cases r <;> rfl

/-- A word is the zero extension of the field that has its value. -/
theorem eq_setWidth_of_toNat_eq {n : Nat} (hn : n ≤ 32) {v : Word} {x : BitVec n} (h : v.toNat = x.toNat) :
    v = x.setWidth 32 :=
  BitVec.eq_of_toNat_eq (by rw [h, BitVec.toNat_setWidth_of_le hn])

/-- A word is the sign extension of the field that has its value. -/
theorem eq_signExtend_of_toInt_eq {n : Nat} (hn : n ≤ 32) {v : Word} {x : BitVec n} (h : v.toInt = x.toInt) :
    v = x.signExtend 32 :=
  BitVec.eq_of_toInt_eq (by rw [h, BitVec.toInt_signExtend_of_le hn])

/-- Settles O12: the read changes the host's record alone, and its word is STATUS bit by bit. -/
theorem statusReadReturnsFlags : Obligations.StatusReadReturnsFlags := by
  intro s rest h
  have hstep := step_of_registerRead h rfl
  rw [show Reg.ofOffset 0x04 = .status from rfl] at hstep
  refine ⟨_, hstep, readReg_eq .., ?_⟩
  rw [readReg_data (r := .status) rfl]
  exact statusWord_bits { s with agenda := rest }

/-- Settles O13: the register that each offset names, and its value as a word. -/
theorem registerReadsReturnFields : Obligations.RegisterReadsReturnFields := by
  intro s offset v rest h hv
  rcases hv with ⟨rfl, hv⟩ | ⟨rfl, h0, h1, h2, h3⟩ | ⟨rfl, hv⟩ | ⟨rfl, hv⟩ | ⟨rfl, hv⟩ | ⟨rfl, hv⟩ | ⟨rfl, hv⟩ | ⟨rfl, hv⟩
    | ⟨rfl, hv⟩ | ⟨rfl, hv⟩ | ⟨rfl, hv⟩ | ⟨rfl, hv⟩ | ⟨rfl, hv⟩ | ⟨rfl, hv⟩ | ⟨rfl, hv⟩ | ⟨rfl, hv⟩ | ⟨rfl, hv⟩
  · exact step_of_plainRead (r := .cmd) h rfl rfl rfl nofun hv
  · exact step_of_plainRead (r := .ctrl) h rfl rfl rfl nofun (word_of_threeBits h0 h1 h2 h3)
  · exact step_of_plainRead (r := .pixfmt) h rfl rfl rfl nofun (eq_setWidth_of_toNat_eq (by decide) hv)
  · exact step_of_plainRead (r := .width) h rfl rfl rfl nofun (eq_setWidth_of_toNat_eq (by decide) hv)
  · exact step_of_plainRead (r := .height) h rfl rfl rfl nofun (eq_setWidth_of_toNat_eq (by decide) hv)
  · exact step_of_plainRead (r := .frameCount) h rfl rfl rfl nofun (eq_setWidth_of_toNat_eq (by decide) hv)
  · exact step_of_plainRead (r := .regionBase) h rfl rfl rfl nofun hv
  · exact step_of_plainRead (r := .regionSize) h rfl rfl rfl nofun hv
  · exact step_of_plainRead (r := .capturesPerFrame) h rfl rfl rfl nofun (eq_setWidth_of_toNat_eq (by decide) hv)
  · exact step_of_plainRead (r := .channel) h rfl rfl rfl nofun (eq_setWidth_of_toNat_eq (by decide) hv)
  · exact step_of_plainRead (r := .capIndex) h rfl rfl rfl nofun (eq_setWidth_of_toNat_eq (by decide) hv)
  · exact step_of_plainRead (r := .syncIndex) h rfl rfl rfl nofun (eq_setWidth_of_toNat_eq (by decide) hv)
  · exact step_of_plainRead (r := .activeIndex) h rfl rfl rfl nofun (eq_setWidth_of_toNat_eq (by decide) hv)
  · exact step_of_plainRead (r := .outDim) h rfl rfl rfl nofun hv
  · exact step_of_plainRead (r := .outInfo) h rfl rfl rfl nofun hv
  · exact step_of_plainRead (r := .outAddr) h rfl rfl rfl nofun hv
  · exact step_of_plainRead (r := .outLen) h rfl rfl rfl nofun hv

/-! ### The table window -/

/-- Entry `c` of a table of bytes, by the byte or by the number (R46). -/
theorem yAt_ofNat (t : Tables) (c : Fin 256) : t.yAt (BitVec.ofNat 8 c) = ((t.y[c]).toNat : Int) := by
  have hc : (BitVec.ofNat 8 c.val).toNat = c.val := by rw [BitVec.toNat_ofNat]; omega
  simp only [Tables.yAt, hc]
  rfl

theorem uvAt_ofNat (t : Tables) (c : Fin 256) : t.uvAt (BitVec.ofNat 8 c) = (t.uv[c]).toInt := by
  have hc : (BitVec.ofNat 8 c.val).toNat = c.val := by rw [BitVec.toNat_ofNat]; omega
  simp only [Tables.uvAt, hc]
  rfl

/-- An index of a signed table is the position that its offset has from the window's base (R45, R47). -/
theorem exists_position {offset base : Nat} {k : Int} (hlow : -127 ≤ k) (hhigh : k ≤ 127)
    (ho : (offset : Int) = base + 4 * (k + 127)) :
    ∃ n : Fin 255, (n.val : Int) = k + 127 ∧ offset = base + 4 * n.val :=
  ⟨⟨(k + 127).toNat, by omega⟩, by simp only; omega, by simp only; omega⟩

/-- A read at position `n` of a signed table's window returns the entry of its index (R48). -/
theorem step_of_signedRead {s : State} {base : Nat} {v : Word} {rest : List Event} {n : Fin 255} {reg : Fin 255 → Reg}
    (h : s.agenda = .hostRead 32 (base + 4 * n.val) :: rest) (hl : s.status.lutValid = true) (h4 : base % 4 = 0)
    (hr : Reg.ofOffset (base + 4 * n.val) = reg n) (hw : (reg n).isWindow = true) {t : Vector (BitVec 16) 255} {k : Int}
    (hn : (n.val : Int) = k + 127) (hreg : s.regValue (reg n) = (t[n]).signExtend 32) (hv : v.toInt = signedEntry t k) :
    step s = .next { s with agenda := rest, host := { s.host with data := v } } := by
  refine step_of_windowRead h hl (by omega) hr hw ?_
  rw [hreg]
  exact BitVec.eq_of_toInt_eq (hv.trans (signExtend_signedEntry t hn).symm)

/-- Settles O15: each window by the register its offset names, whose value is the entry, extended. -/
theorem windowReadsReturnEntries : Obligations.WindowReadsReturnEntries := by
  intro s offset v rest hl h hcase
  rcases hcase with ⟨c, rfl, hv⟩ | ⟨c, rfl, hv⟩ | ⟨k, hlow, hhigh, ho, hv⟩ | ⟨k, hlow, hhigh, ho, hv⟩
    | ⟨k, hlow, hhigh, ho, hv⟩ | ⟨k, hlow, hhigh, ho, hv⟩
  · rw [yAt_ofNat] at hv
    exact step_of_windowRead h hl (by omega) (ofOffset_lutY c) rfl
      (eq_setWidth_of_toNat_eq (by decide) (Int.ofNat_inj.1 hv))
  · rw [uvAt_ofNat] at hv
    exact step_of_windowRead h hl (by omega) (ofOffset_lutUv c) rfl (eq_signExtend_of_toInt_eq (by decide) hv)
  · obtain ⟨n, hn, rfl⟩ := exists_position hlow hhigh ho
    exact step_of_signedRead h hl rfl (ofOffset_lutRv n) rfl hn rfl hv
  · obtain ⟨n, hn, rfl⟩ := exists_position hlow hhigh ho
    exact step_of_signedRead h hl rfl (ofOffset_lutGu n) rfl hn rfl hv
  · obtain ⟨n, hn, rfl⟩ := exists_position hlow hhigh ho
    exact step_of_signedRead h hl rfl (ofOffset_lutGv n) rfl hn rfl hv
  · obtain ⟨n, hn, rfl⟩ := exists_position hlow hhigh ho
    exact step_of_signedRead h hl rfl (ofOffset_lutBu n) rfl hn rfl hv

/-- A read of the table window before BUILD_LUT draws a value (R48). -/
theorem readReg_window_drawn {s : State} {r : Reg} (h : r.isWindow = true) (hl : s.status.lutValid = false) :
    s.readReg r = s.replyDrawn (Config.windowDraw s.host.draws) := by
  simp [State.readReg, h, hl]

/-- Settles O16: the offsets of the statement are those of the table window. -/
theorem windowReadsBeforeBuildAreDraws : Obligations.WindowReadsBeforeBuildAreDraws := by
  intro s offset rest hl h h4 hlow hhigh h1 h2 h3
  rw [step_of_registerRead h h4,
    readReg_window_drawn (s := { s with agenda := rest }) (isWindow_ofOffset h4 hlow hhigh h1 h2 h3) hl]
  rfl

/-! ### Register writes -/

/-- Settles O10: the step of a write to STATUS. -/
theorem statusWriteClearsOvrOnly : Obligations.StatusWriteClearsOvrOnly :=
  fun _ _ _ h => step_of_statusWrite h

/-- While BUSY is 0 a configuration register takes its value (R44). -/
theorem writeReg_config_of_idle {s : State} {r : Reg} (hr : r.isConfig = true) (h : s.seq.phase = .idle) (v : Word) :
    s.writeReg r v = s.writeConfig r v := by
  have hs : r ≠ .status := by rintro rfl; exact absurd hr nofun
  simp [State.writeReg, State.busy, hs, hr, h]

/-- The step of a write to a configuration register while BUSY is 0 (R44). -/
theorem step_of_configWrite_idle {s : State} {offset : Nat} {v : Word} {rest : List Event}
    (h : s.agenda = .hostWrite 32 offset v :: rest) (hp : s.seq.phase = .idle) {r : Reg} (h4 : offset % 4 = 0)
    (hr : Reg.ofOffset offset = r) (hc : r.isConfig = true) :
    step s = .next (State.writeConfig { s with agenda := rest } r v) := by
  subst hr
  rw [step_of_registerWrite h h4 (ne_cmd_of_isConfig hc), writeReg_config_of_idle (s := { s with agenda := rest }) hc hp]

/-- Settles O11: the nine registers; a field is the low bits of the word written. -/
theorem configurationWritesStoreFields : Obligations.ConfigurationWritesStoreFields := by
  intro s v offset rest h hp
  simp only [← BitVec.setWidth_eq_extractLsb' (show 3 ≤ 32 by decide), ← BitVec.setWidth_eq_extractLsb' (show 8 ≤ 32 by decide),
    ← BitVec.setWidth_eq_extractLsb' (show 16 ≤ 32 by decide)]
  refine ⟨?ctrl, ?pixfmt, ?width, ?height, ?frameCount, ?regionBase, ?regionSize, ?capturesPerFrame, ?channel⟩ <;>
    rintro rfl <;> exact step_of_configWrite_idle h hp rfl rfl rfl

/-! ### Refused and ignored accesses -/

/-- An access of a wrong width or alignment is refused (R41). -/
theorem step_of_badAccess {s : State} {width offset : Nat} {v : Word} {rest : List Event}
    (hbad : width ≠ 32 ∨ offset % 4 ≠ 0)
    (h : s.agenda = .hostRead width offset :: rest ∨ s.agenda = .hostWrite width offset v :: rest) :
    step s = .refused .badRegAccess := by
  rcases h with h | h
  · rw [step_of_cons h, State.eventTurn, State.hostReadReg, if_pos hbad, runTurn]
  · rw [step_of_cons h, State.eventTurn, State.hostWriteTurn, if_pos hbad, runTurn]

/-- The offsets that the map assigns nothing to (R45). -/
theorem ofOffset_unmapped {offset : Nat} (h4 : offset % 4 = 0)
    (h : (0x48 ≤ offset ∧ offset < 0x1000) ∨ offset = 0x1BFC ∨ offset = 0x1FFC ∨ offset = 0x23FC ∨ 0x27FC ≤ offset) :
    Reg.ofOffset offset = .unmapped := by
  rcases h with ⟨hlow, hhigh⟩ | rfl | rfl | rfl | hlow
  · unfold Reg.ofOffset
    rw [if_pos hhigh]
    split
    iterate 18 · omega
    · rfl
  · rfl
  · rfl
  · rfl
  · have hbeyond : ¬ (offset - 0x2400) / 4 < 255 := by omega
    simp only [Reg.ofOffset, windowEntry, hbeyond, dif_neg, not_false_eq_true, show ¬ offset < 0x1000 by omega,
      show ¬ offset < 0x1400 by omega, show ¬ offset < 0x1800 by omega, show ¬ offset < 0x1C00 by omega,
      show ¬ offset < 0x2000 by omega, show ¬ offset < 0x2400 by omega, if_false]

/-- A register that is neither CMD nor STATUS nor a configuration register ignores writes (R41). -/
theorem writeReg_ignored {s : State} {r : Reg} (hs : r ≠ .status) (hc : r.isConfig = false) (v : Word) :
    s.writeReg r v = s := by
  simp [State.writeReg, hs, hc]

/-- From 0x2C on every register is read-only or unmapped (R45). -/
theorem ofOffset_readOnly {offset : Nat} (h : 0x2C ≤ offset) :
    Reg.ofOffset offset ≠ .cmd ∧ Reg.ofOffset offset ≠ .status ∧ (Reg.ofOffset offset).isConfig = false := by
  refine ⟨?_, ?_, ?_⟩
  · rw [ne_eq, ofOffset_eq_cmd_iff]; omega
  · rw [ne_eq, ofOffset_eq_status_iff]; omega
  · refine Bool.eq_false_iff.2 fun hc => ?_
    have hmem := mem_of_isConfig_ofOffset hc
    simp only [List.mem_cons, List.not_mem_nil, or_false] at hmem
    omega

/-- Settles O14: the refusal, the unmapped offsets, and the registers that take no write. -/
theorem undefinedAndReadOnlyAccesses : Obligations.UndefinedAndReadOnlyAccesses := by
  intro s width offset v rest
  refine ⟨step_of_badAccess, ?_, ?_⟩
  · rintro rfl h4 hoff h
    exact step_of_plainRead h h4 (ofOffset_unmapped h4 hoff) rfl nofun rfl
  · rintro rfl h4 hoff h
    obtain ⟨hcmd, hstatus, hconfig⟩ := ofOffset_readOnly hoff
    rw [step_of_registerWrite h h4 hcmd, writeReg_ignored hstatus hconfig]

end Sys2Proof.Machine
end

section
/-! SUPPORT. Several steps in a row, and the events of the device, the memories and reset (20_memory.md R60 to R79,
70_reset_and_hazards.md R260 to R269). -/

namespace Sys2Proof.Machine

open Sys2Proof.Claims

/-! ### Runs -/

section runs
variable {M : Host.Core} {j k : Nat} {s t u : M.State}

/-- A run goes on from the next state. -/
theorem coreRun_succ (h : M.step s = .next u) : M.run (k + 1) s = M.run k u := by
  rw [Host.Core.run, h]

/-- A run of one step is that step. -/
theorem coreRun_one : M.run 1 s = M.step s := by
  rw [Host.Core.run]
  cases M.step s <;> rfl

/-- A run that has got somewhere goes on from there. -/
theorem coreRun_add (h : M.run j s = .next t) : M.run (j + k) s = M.run k t := by
  induction j generalizing s with
  | zero =>
    obtain rfl : s = t := Host.Outcome.next.inj h
    rw [Nat.zero_add]
  | succ j ih =>
    rw [Host.Core.run] at h
    split at h
    · next u hu => rw [Nat.succ_add, coreRun_succ hu, ih h]
    · exact absurd h nofun
    · exact absurd h nofun

end runs

/-- The same of this machine. -/
theorem run_succ_of_next {k : Nat} {s u : State} (h : step s = .next u) :
    Host.Core.run core (k + 1) s = Host.Core.run core k u := coreRun_succ (M := core) h

theorem run_one (s : State) : Host.Core.run core 1 s = step s := coreRun_one (M := core)

theorem run_add {j k : Nat} {s t : State} (h : Host.Core.run core j s = .next t) :
    Host.Core.run core (j + k) s = Host.Core.run core k t := coreRun_add (M := core) h

/-! ### The device's answers -/

/-- The state in which the answer `a` to the outstanding request `r` has arrived and waits for the engine (R70, R75). -/
def answered (s : State) (r : DevRequest) (a : DevAnswer) : State :=
  { s with
    stale := s.staleAfter r a
    chan := { s.chan with answer := some a, log := .answered r a :: s.chan.log } }

section answered
variable (s : State) (r : DevRequest) (a : DevAnswer)

@[simp] theorem answered_ring : (answered s r a).ring = s.ring := rfl
@[simp] theorem answered_cfg : (answered s r a).cfg = s.cfg := rfl
@[simp] theorem answered_seq : (answered s r a).seq = s.seq := rfl
@[simp] theorem answered_agenda : (answered s r a).agenda = s.agenda := rfl
@[simp] theorem answered_chan : (answered s r a).chan =
    { s.chan with answer := some a, log := .answered r a :: s.chan.log } := rfl

end answered

/-- The step of an answer that a request waits for (R70). -/
theorem step_of_answer {s : State} {a : DevAnswer} {rest : List Event} {r : DevRequest}
    (h : s.agenda = .deviceAnswer a :: rest) (ho : s.chan.outstanding = some r) (hn : s.chan.answer = none) :
    step s = .next (answered { s with agenda := rest } r a) := by
  rw [step_of_cons h, State.eventTurn, runTurn, State.deliverAnswer]
  split
  · next r' ho' _ =>
    obtain rfl : r' = r := Option.some.inj (ho'.symm.trans ho)
    rfl
  · next hother => exact (hother r ho hn).elim

/-- The step of an answer that no request waits for (R70). -/
theorem step_of_unasked {s : State} {a : DevAnswer} {rest : List Event} (h : s.agenda = .deviceAnswer a :: rest)
    (hnone : s.chan.outstanding = none ∨ s.chan.answer ≠ none) : step s = .refused .unsolicitedAnswer := by
  rw [step_of_cons h, State.eventTurn, runTurn, State.deliverAnswer]
  split
  · next r ho hn =>
    rcases hnone with hnone | hanswer
    · exact absurd (hnone.symm.trans ho) nofun
    · exact absurd hn hanswer
  · rfl

/-- Settles O59: the answer that is waited for, with what it settles, and the answer that is not. -/
theorem answersMatchRequests : Obligations.AnswersMatchRequests := by
  intro s a rest h
  refine ⟨fun r ho hn => ⟨_, step_of_answer h ho hn, rfl, fun c => ?_⟩, step_of_unasked h⟩
  exact mem_staleAfter_iff s r a c

/-! ### Reset -/

/-- The device holds nothing exactly when nothing is outstanding, in flight or queued (R262). -/
theorem deviceIdle_iff (s : State) :
    s.deviceIdle = true ↔ s.chan.outstanding = none ∧ s.chan.answer = none ∧ queuedSlots s.chan.log = [] := by
  simp [State.deviceIdle, and_assoc]

/-- Settles O60: reset answers the reset values when the device is torn down or holds nothing, and is refused otherwise. -/
theorem resetLeavesResetValues : Obligations.ResetLeavesResetValues := by
  intro s down rest h
  have hstep : step s = State.takeReset { s with agenda := rest } down := by
    rw [step_of_cons h, State.eventTurn, runTurn]
  have hidle : State.deviceIdle { s with agenda := rest } = s.deviceIdle := rfl
  rw [hstep, State.takeReset, hidle]
  refine ⟨fun hok => ?_, fun hdown hbusy => ?_⟩
  · have hreset : (down || s.deviceIdle) = true := by
      rw [Bool.or_eq_true, deviceIdle_iff]
      exact hok
    rw [if_pos hreset]
    exact ⟨_, rfl, rfl, rfl, rfl, rfl, rfl, rfl, rfl, rfl, rfl, rfl⟩
  · have hrefused : ¬ (down || s.deviceIdle) = true := by
      rw [Bool.or_eq_true, deviceIdle_iff]
      rintro (hd | ⟨ho, ha, hq⟩)
      · exact absurd (hd.symm.trans hdown) nofun
      · rcases hbusy with hne | hne | hne
        · exact hne ho
        · exact hne ha
        · exact hne hq
    rw [if_neg hrefused]

/-! ### SCRATCH as the host reads it -/

/-- The step of a read of a SCRATCH byte that exists (R61, R76). -/
theorem step_of_scratchRead {s : State} {a : Nat} {rest : List Event} (h : s.agenda = .hostReadScratch a :: rest)
    (ha : a < Config.scratchCap) :
    step s = .next (State.replyRacing { s with agenda := rest } (s.scratchByte a) (s.otherScratch a)) := by
  rw [step_of_cons h, State.eventTurn, runTurn, State.hostReadScratchByte, if_neg (not_not.2 ha)]
  rfl

/-- The step of a read beyond SCRATCH_CAP (log 17). -/
theorem step_of_scratchRead_beyond {s : State} {a : Nat} {rest : List Event}
    (h : s.agenda = .hostReadScratch a :: rest) (ha : Config.scratchCap ≤ a) : step s = .fault .scratchOutOfRange := by
  rw [step_of_cons h, State.eventTurn, runTurn, State.hostReadScratchByte, if_pos (Nat.not_lt.2 ha)]

/-- The step of a STATUS read that returns DONE = 1 ends the race on SCRATCH (R76). -/
theorem step_of_doneRead {s : State} {rest : List Event} (h : s.agenda = .hostRead 32 0x04 :: rest)
    (hd : s.status.done = true) :
    step s = .next (State.closeRace (State.reply { s with agenda := rest } (State.statusWord { s with agenda := rest }))) := by
  rw [step_of_registerRead h rfl]
  have hreg : Reg.ofOffset 0x04 = .status := rfl
  simp [hreg, State.readReg, Reg.isWindow, hd, State.regValue]

/-- Settles O17: after the first step nothing of SCRATCH races, so the second read is exact. -/
theorem scratchReadsAreExactAfterDone : Obligations.ScratchReadsAreExactAfterDone := by
  intro s a rest h hd
  have hrun := (run_succ_of_next (k := 1) (step_of_doneRead h hd)).trans (run_one _)
  refine ⟨fun ha => ?_, fun ha => hrun.trans (step_of_scratchRead_beyond rfl ha)⟩
  refine ⟨_, hrun.trans (step_of_scratchRead rfl ha), State.replyRacing_agenda .., ?_, State.replyRacing_scratch ..⟩
  rw [State.otherScratch, newScratch_of_done (by exact hd)]
  rfl

/-- An image written at SCRATCH 0 stands there byte by byte, whatever was there before (R61). -/
theorem read_image (m : Memory) {image : List Byte} {a : Nat} (ha : a < image.length) :
    Memory.read (Memory.writeBytes m 0 image) a = some image[a] := by
  have hread := Memory.read_writeBytes_in m 0 image ha
  rwa [Nat.zero_add] at hread

/-- The image of a converting kernel in SCRATCH, byte by byte, is what the host may be shown as new before the step (R69,
R269). -/
theorem newScratch_of_conversion {s : State} (hp : s.seq.phase = .conv) (hd : s.status.done = false)
    (hu : usesScratch s.format s.cfg.bgrInvert = true) (a : Nat) :
    (a < 3 * s.pixelCount → ∃ b, s.newScratch a = [b]
        ∧ Memory.read (s.scratchResult s.format (s.imageOf s.format)).scratch a = some b)
      ∧ (3 * s.pixelCount ≤ a → s.newScratch a = []) := by
  rw [newScratch_eq hp hd hu, ← imageOf_length hu]
  refine ⟨fun ha => ⟨(s.imageOf s.format)[a], ?_, read_image s.scratch ha⟩, fun ha => ?_⟩
  · rw [List.getElem?_eq_getElem ha, Option.toList_some]
  · rw [List.getElem?_eq_none ha, Option.toList_none]

/-- Settles O18: a read returns the entry that the free value selects, the conversion step leaves its image over what it
keeps, and only reset and the read of DONE forget what is kept. -/
theorem scratchReadsRaceUntilDone : Obligations.ScratchReadsRaceUntilDone := by
  refine ⟨fun s a rest h ha => ?_, fun s t a hp hd hu h => ?_, fun s a hp => newScratch_eq_nil hp a,
    fun s t h hreset hdone => ?_⟩
  · refine ⟨_, racingRead (s.scratchByte a) (s.otherScratch a) (Config.hostView s.host.draws),
      step_of_scratchRead h ha, replyRacing_eq .., racingRead_getElem? .., fun hrace => ?_⟩
    exact replyRacing_draws (s := { s with agenda := rest }) (List.ne_nil_of_length_pos (Nat.lt_of_succ_lt_succ hrace))
  · rcases exec_kernel_next h with ⟨-, -, rfl⟩ | ⟨hview, -⟩
    · exact ⟨rfl, newScratch_of_conversion hp hd hu a⟩
    · exact absurd (hu.symm.trans hview) nofun
  · obtain ⟨e, rest, he, hm⟩ := step_move h
    rcases hm.older_writers with hkept | ⟨d, rfl⟩ | ⟨hd, rfl⟩
    · exact hkept
    · exact absurd (agenda_of_move he nofun) (hreset d rest)
    · exact absurd (agenda_of_move he nofun) (hdone hd rest)

/-! ### DEVBUF as the host reads it -/

/-- A byte of DEVBUF after a device write (R60, R73). -/
theorem devbufByte_deviceWriteByte (s : State) (a : Word) (b : Byte) (c : Nat) :
    (s.deviceWriteByte a b).devbufByte c = if c = a.toNat then b else s.devbufByte c := by
  unfold State.devbufByte
  split
  · next heq => rw [heq, State.deviceWriteByte_devbuf, Memory.read_write_same, Option.getD_some]
  · next hne => rw [State.deviceWriteByte_devbuf, Memory.read_write_other _ _ hne]

/-- The step of a device write (R73). -/
theorem step_of_deviceWrite {s : State} {a : Word} {b : Byte} {rest : List Event}
    (h : s.agenda = .deviceWrite a b :: rest) : step s = .next (State.deviceWriteByte { s with agenda := rest } a b) :=
  step_of_cons h

/-- The step of a host read of DEVBUF (R78, R79). -/
theorem step_of_devbufRead {s : State} {c : Word} {rest : List Event} (h : s.agenda = .hostReadDevbuf c :: rest) :
    step s = .next (State.hostReadDevbufByte { s with agenda := rest } c) :=
  step_of_cons h

/-- Where nothing races the host gets the byte that DEVBUF holds (R78). -/
theorem step_of_devbufRead_settled {s : State} {c : Word} {rest : List Event} (h : s.agenda = .hostReadDevbuf c :: rest)
    (hs : ∀ b, (c.toNat, b) ∉ s.stale) :
    ∃ t, step s = .next t ∧ t.agenda = rest ∧ t.host.data.toNat = (s.devbufByte c.toNat).toNat := by
  refine ⟨_, step_of_devbufRead h, State.hostReadDevbufByte_agenda .., ?_⟩
  rw [hostReadDevbufByte_settled (s := { s with agenda := rest }) hs]
  exact BitVec.toNat_setWidth_of_le (by decide)

/-- After the OK answer to WAIT_SYNC no byte of the slot races (R75). -/
theorem not_mem_staleAfter_of_synced {s : State} {slot : SlotIndex} {c : Nat} (hlow : s.slotAddr slot.toNat ≤ c)
    (hhigh : c < s.slotAddr slot.toNat + s.frameSize) (v : Byte) : (c, v) ∉ s.staleAfter (.waitSync slot) .ok := by
  rw [mem_staleAfter_iff]
  exact fun h => h.2 ⟨rfl, slot, rfl, hlow, hhigh⟩

/-- Settles O19: the write, the read in a race, and the read after the sync, in which nothing of the slot races. -/
theorem devbufReadsReturnTheLatestWrite : Obligations.DevbufReadsReturnTheLatestWrite := by
  refine ⟨fun s a b rest h => ?_, fun s c rest h => ?_, fun s a c b slot rest h ho hn hlow hhigh => ?_⟩
  · exact ⟨_, step_of_deviceWrite h, rfl, devbufByte_deviceWriteByte { s with agenda := rest } a b⟩
  · refine ⟨_, _, step_of_devbufRead h, replyRacing_eq .., ?_⟩
    exact (racingRead_mem _ _ _).imp_right mem_staleBytes.1
  · have hwrite := step_of_deviceWrite h
    have hanswer := step_of_answer
      (s := State.deviceWriteByte { s with agenda := .deviceAnswer .ok :: .hostReadDevbuf c :: rest } a b) rfl ho hn
    obtain ⟨t, hread, hag, hdata⟩ := step_of_devbufRead_settled
      (s := answered (State.deviceWriteByte { s with agenda := .hostReadDevbuf c :: rest } a b) (.waitSync slot) .ok)
      rfl (not_mem_staleAfter_of_synced hlow hhigh)
    refine ⟨t, (run_succ_of_next hwrite).trans ((run_succ_of_next hanswer).trans ((run_one _).trans hread)), hag, ?_⟩
    refine hdata.trans ((congrArg BitVec.toNat (devbufByte_deviceWriteByte s a b c.toNat)).trans ?_)
    simp only [BitVec.toNat_inj]
    exact apply_ite BitVec.toNat _ _ _

end Sys2Proof.Machine
end

section
/-! SUPPORT. The commands' own steps on the device's answers, commands in a foreign phase, and the conversion step (40_lut_builder.md
R120; 41_ring_controller.md R140 to R154; 42_convert_yuv.md R170). -/

namespace Sys2Proof.Machine

open Sys2Proof.Claims Sys2Proof.Safety

/-! ### BUILD_LUT -/

/-- In phase IDLE the operation of BUILD_LUT is its acceptance (R120). -/
theorem exec_buildLut_of_idle {s : State} (h : s.seq.phase = .idle) : exec .buildLut s = .next s.acceptBuildLut := by
  rw [exec, execBuildLut, h]

/-- Settles O20: the one check is LUT_VALID. -/
theorem buildLutAcceptance : Obligations.BuildLutAcceptance := by
  intro s hp
  rw [exec_buildLut_of_idle hp]
  refine ⟨fun hlut => ?_, fun hlut => ?_⟩
  · rw [State.acceptBuildLut, if_neg (Bool.eq_false_iff.1 hlut)]
    rfl
  · rw [State.acceptBuildLut, if_pos hlut, raise_acceptWord_of_idle hp]
    rfl

/-! ### REQCAP and its answer -/

/-- The OK answer to REQCAP advances CAP_INDEX and ends the command (R145). -/
theorem exec_reqcap_of_ok {s : State} (hp : s.seq.phase = .rqQ) (ha : s.chan.answer = some .ok) :
    exec .reqcap s = .next s.takeAnswer.advanceCap.finish := by
  simp only [exec, execReqcap, hp, State.endReqcap, ha]

/-- The FAIL answer to REQCAP ends it with ERR_QUEUE (R146). -/
theorem exec_reqcap_of_fail {s : State} (hp : s.seq.phase = .rqQ) (ha : s.chan.answer = some .fail) :
    exec .reqcap s = .next (s.takeAnswer.raise .queue) := by
  simp only [exec, execReqcap, hp, State.endReqcap, ha]

/-- Without an answer REQCAP waits (R144). -/
theorem exec_reqcap_of_noAnswer {s : State} (hp : s.seq.phase = .rqQ) (ha : s.chan.answer = none) :
    exec .reqcap s = .next s := by
  simp only [exec, execReqcap, hp, State.endReqcap, ha]

/-- Settles O24: the advance is the addition modulo FRAME_COUNT. -/
theorem reqcapOkAdvancesCapIndex : Obligations.ReqcapOkAdvancesCapIndex :=
  fun _ hp ha hcap => ⟨_, exec_reqcap_of_ok hp ha, advanceIndex_toNat hcap, rfl⟩

/-- Settles O25: the failure end, and the wait. -/
theorem reqcapFailLeavesIndices : Obligations.ReqcapFailLeavesIndices := by
  refine fun s hp => ⟨fun ha => ?_, exec_reqcap_of_noAnswer hp⟩
  rw [exec_reqcap_of_fail hp ha, raise_takeAnswer_eq, ErrorCode.code]

/-! ### AWAIT and its answers -/

/-- Without an answer AWAIT waits (R149, R270). -/
theorem exec_await_of_noAnswer {s : State} (hp : s.seq.phase = .awW ∨ s.seq.phase = .awQ) (ha : s.chan.answer = none) :
    exec .await s = .next s := by
  rcases hp with hp | hp
  · simp only [exec, execAwait, hp, State.endWait, ha]
  · simp only [exec, execAwait, hp, State.endRequeue, ha]

/-- The OK answer to a wait ends one wait of the burst (R147 step B). -/
theorem exec_await_of_waitOk {s : State} (hp : s.seq.phase = .awW) (ha : s.chan.answer = some .ok) :
    exec .await s = .next s.takeAnswer.endBurst := by
  simp only [exec, execAwait, hp, State.endWait, ha]

@[simp] theorem oneWaitLess_ring (s : State) : (oneWaitLess s).ring = s.ring := rfl
@[simp] theorem oneWaitLess_cfg (s : State) : (oneWaitLess s).cfg = s.cfg := rfl
@[simp] theorem oneWaitLess_agenda (s : State) : (oneWaitLess s).agenda = s.agenda := rfl
@[simp] theorem oneWaitLess_seq (s : State) :
    (oneWaitLess s).seq = { s.seq with burstLeft := s.seq.burstLeft - 1 } := rfl
@[simp] theorem oneWaitLess_chan (s : State) :
    (oneWaitLess s).chan = { s.chan with outstanding := none, answer := none } := rfl

/-- With waits left the engine then re-queues (R151). -/
theorem exec_await_of_moreWaits {s : State} (hp : s.seq.phase = .awW) (ha : s.chan.answer = some .ok)
    (hb : 1 < s.seq.burstLeft) : exec .await s = .next (oneWaitLess s).requeue := by
  rw [exec_await_of_waitOk hp ha]
  exact congrArg Host.Outcome.next (if_pos (show 0 < s.seq.burstLeft - 1 by omega))

/-- The conversion of the slot that SYNC_INDEX names has begun, and SYNC_INDEX has advanced (R153). -/
def conversionStarted (s : State) : State :=
  { s with
    ring := { s.ring with syncIndex := advanceIndex s.ring.syncIndex s.cfg.frameCount }
    chan := { s.chan with outstanding := none, answer := none }
    seq := { phase := .conv, burstLeft := 0, convSlot := s.ring.syncIndex.toNat, convAdvance := true } }

@[simp] theorem conversionStarted_log (s : State) : (conversionStarted s).chan.log = s.chan.log := rfl

/-- After the last wait the conversion begins (R153). -/
theorem exec_await_of_lastWait {s : State} (hp : s.seq.phase = .awW) (ha : s.chan.answer = some .ok)
    (hb : s.seq.burstLeft = 1) : exec .await s = .next (conversionStarted s) := by
  have hzero : s.seq.burstLeft - 1 = 0 := by omega
  rw [exec_await_of_waitOk hp ha, State.endBurst]
  simp only [State.takeAnswer_seq, hzero, Nat.lt_irrefl, if_false]
  rfl

/-- The OK answer to a burst re-queue makes the engine wait again (R147 step C). -/
theorem exec_await_of_requeueOk {s : State} (hp : s.seq.phase = .awQ) (ha : s.chan.answer = some .ok) :
    exec .await s = .next s.takeAnswer.sendWait := by
  simp only [exec, execAwait, hp, State.endRequeue, ha]

/-- Settles O27: the burst goes on or ends by `burst_left`. -/
theorem awaitWaitAnsweredOk : Obligations.AwaitWaitAnsweredOk :=
  fun _ hp ha => ⟨exec_await_of_moreWaits hp ha,
    fun hlast hsync => ⟨_, exec_await_of_lastWait hp ha hlast, advanceIndex_toNat hsync, rfl⟩⟩

/-- Settles O28: the step on that answer. -/
theorem awaitRequeueAnsweredOk : Obligations.AwaitRequeueAnsweredOk :=
  fun _ hp ha => exec_await_of_requeueOk hp ha

/-! ### A foreign phase -/

/-- Settles O34: each command's arms for the phases of the others. -/
theorem foreignPhaseDropsCommand : Obligations.ForeignPhaseDropsCommand := by
  have mem_four : ∀ {p a b c d : Phase}, p ∈ [a, b, c, d] → p = a ∨ p = b ∨ p = c ∨ p = d := by simp
  have mem_two : ∀ {p a b : Phase}, p ∈ [a, b] → p = a ∨ p = b := by simp
  rintro s i slot (⟨rfl, hp⟩ | ⟨rfl, hp⟩ | ⟨rfl, hp | ⟨hp, hadv⟩⟩ | ⟨rfl, hp | ⟨hp, hadv⟩⟩)
  · rcases mem_four hp with hp | hp | hp | hp <;> rw [exec, execBuildLut, hp] <;> rfl
  · rcases mem_four hp with hp | hp | hp | hp <;> rw [exec, execReqcap, hp] <;> rfl
  · rcases mem_two hp with hp | hp <;> rw [exec, execAwait, hp] <;> rfl
  · simp only [exec, execAwait, hp, hadv, Bool.false_eq_true, if_false]
    rfl
  · rcases mem_four hp with hp | hp | hp | hp <;> rw [exec, execConvert, hp] <;> rfl
  · simp only [exec, execConvert, hp, hadv, if_true]
    rfl

/-! ### The conversion step -/

/-- A kernel's completion is a conversion's end, whatever the kernel (R170). -/
theorem conversionFrame_of_exec_kernel {f : PixelFormat} {s t : State} (h : exec f.kernel s = .next t) :
    conversionFrame s t := by
  rcases exec_kernel_next h with ⟨-, -, rfl⟩ | ⟨-, fmt, channels, len, rfl⟩
  · exact ⟨rfl, rfl, rfl, rfl, rfl, rfl, rfl, rfl, rfl, rfl⟩
  · exact conversionFrame_endAsView s fmt channels len

/-- In phase CONV an AWAIT takes the step of the kernel that PIXFMT selects (R101, R154). -/
theorem exec_await_of_conv {s : State} (hp : s.seq.phase = .conv) (hadv : s.seq.convAdvance = true) :
    exec .await s = exec s.format.kernel s := by
  rw [← conversionStep_eq_exec]
  simp only [exec, execAwait, hp, hadv, if_true]

/-- So does a CONVERT, when the conversion is its own (R101, R170). -/
theorem exec_convert_of_conv {s : State} (hp : s.seq.phase = .conv) (hadv : s.seq.convAdvance = false) (slot : Nat) :
    exec (.convert slot) s = exec s.format.kernel s := by
  rw [← conversionStep_eq_exec]
  simp only [exec, execConvert, hp, hadv, Bool.false_eq_true, if_false]

/-- Settles O33: the kernel completes because its image and input fit, and it is the step of both commands. -/
theorem conversionStepCompletes : Obligations.ConversionStepCompletes := by
  intro s i slot hp hlegal hslot hi
  obtain rfl : s.format.kernel = i := Except.ok.inj hi
  obtain ⟨t, ht⟩ := exec_kernel_completes (fits_of_legal hlegal hslot)
  exact ⟨t, ht, conversionFrame_of_exec_kernel ht, fun hadv => (exec_await_of_conv hp hadv).trans ht,
    fun hadv => (exec_convert_of_conv hp hadv slot).trans ht⟩

end Sys2Proof.Machine
end

section
/-! SUPPORT. The planar and the bit-packed kernels pixel by pixel, the pass-through views, the faults beyond the spaces, and
that a conversion depends on its input alone (42_convert_yuv.md R170 to R175; 43_convert_rgb_passthrough.md R200 to R206). -/

namespace Sys2Proof.Machine

open Sys2Proof.Claims

/-! ### The planar kernels -/

/-- Settles O35: the kernel completes where the image fits, and pixel `(x, r)` is made of the three bytes it reads. -/
theorem yuv420pConvertsEveryPixel : Obligations.Yuv420pConvertsEveryPixel := by
  intro s hfits
  refine ⟨_, (exec_kernelYuv420p s).trans (endInScratch_of_fits hfits _), scratchConversion_scratchResult s .yuv420p _,
    fun x r hx hr => ?_⟩
  exact ⟨_, _, _, mayRead_readInput s _ _, mayRead_readInput s _ _, mayRead_readInput s _ _,
    yuvPixelIs_scratchResult s .yuv420p (rasterIndex_lt hx hr) (yuv420pPixel_at s hx r)⟩

/-- Settles O36: the same with the chroma sample of the pixel's own row. -/
theorem yuv422pConvertsEveryPixel : Obligations.Yuv422pConvertsEveryPixel := by
  intro s hfits
  refine ⟨_, (exec_kernelYuv422p s).trans (endInScratch_of_fits hfits _), scratchConversion_scratchResult s .yuv422p _,
    fun x r hx hr => ?_⟩
  exact ⟨_, _, _, mayRead_readInput s _ _, mayRead_readInput s _ _, mayRead_readInput s _ _,
    yuvPixelIs_scratchResult s .yuv422p (rasterIndex_lt hx hr) (yuv422pPixel_at s hx r)⟩

/-! ### The bit-packed kernels -/

/-- A pixel word bit by bit: the low byte's bits below the high byte's (R67). -/
theorem getElem_pixelWord (high low : Byte) {i : Nat} (hi : i < 16) :
    (high ++ low : BitVec 16)[i] = if h : i < 8 then low[i] else high[i - 8] :=
  BitVec.getElem_append hi

/-- The three channels of a 5-5-5 pixel word by the equations of R200 on its two bytes. -/
theorem unpack555_append (high low : Byte) :
    unpack555 (high ++ low) =
      { r := (high <<< 1) &&& 0xF8, g := ((high <<< 6) ||| (low >>> 2)) &&& 0xF8, b := (low <<< 3) &&& 0xF8 } := by
  simp only [unpack555, Rgb.mk.injEq]
  refine ⟨?_, ?_, ?_⟩ <;> ext i hi <;> interval_cases i <;> simp [expandField, getElem_pixelWord]

/-- The three channels of a 5-6-5 pixel word by the equations of R201 on its two bytes. -/
theorem unpack565_append (high low : Byte) :
    unpack565 (high ++ low) =
      { r := high &&& 0xF8, g := ((high <<< 5) ||| (low >>> 3)) &&& 0xFC, b := (low <<< 3) &&& 0xF8 } := by
  simp only [unpack565, Rgb.mk.injEq]
  refine ⟨?_, ?_, ?_⟩ <;> ext i hi <;> interval_cases i <;> simp [expandField, getElem_pixelWord]

/-- Settles O38: the kernel completes where the image fits, and pixel `i` is unpacked from the word of its two bytes. -/
theorem rgb555UnpacksEveryPixel : Obligations.Rgb555UnpacksEveryPixel := by
  intro s hfits
  have hexec : exec .kernelRgb555 s = .next (s.scratchResult .rgb555 s.rgb555Image) := endInScratch_of_fits hfits _
  refine ⟨_, hexec, scratchConversion_scratchResult s .rgb555 _, fun i hi => ?_⟩
  exact ⟨_, _, mayRead_readInput s i _, mayRead_readInput s i _,
    pixelIs_scratchResult s .rgb555 (px := fun i => unpack555 (s.pixelWord i)) hi (unpack555_append _ _)⟩

/-- Settles O39: the same with a green field of six bits. -/
theorem rgb565UnpacksEveryPixel : Obligations.Rgb565UnpacksEveryPixel := by
  intro s hfits
  have hexec : exec .kernelRgb565 s = .next (s.scratchResult .rgb565 s.rgb565Image) := endInScratch_of_fits hfits _
  refine ⟨_, hexec, scratchConversion_scratchResult s .rgb565 _, fun i hi => ?_⟩
  exact ⟨_, _, mayRead_readInput s i _, mayRead_readInput s i _,
    pixelIs_scratchResult s .rgb565 (px := fun i => unpack565 (s.pixelWord i)) hi (unpack565_append _ _)⟩

/-! ### The pass-through views -/

/-- Two 16-bit dimensions have a product of 32 bits, so OUT_LEN of a GREY view is exact. -/
theorem pixelCount_lt (s : State) : s.pixelCount < 2 ^ 32 :=
  calc s.pixelCount < 2 ^ 16 * 2 ^ 16 := Nat.mul_lt_mul'' s.cfg.width.isLt s.cfg.height.isLt
    _ = 2 ^ 32 := rfl

/-- A slot is no longer than the region, so OUT_LEN of an OTHER view is exact (R63). -/
theorem frameSize_lt {s : State} (h : s.cfg.frameCount ≠ 0) : s.frameSize < 2 ^ 32 := by
  rw [frameSize_eq h]
  exact (Nat.div_le_self _ _).trans_lt s.cfg.regionSize.isLt

/-- Settles O41: both rows end as views, whose lengths fit their word. -/
theorem greyAndOtherAreViews : Obligations.GreyAndOtherAreViews := by
  refine fun s => ⟨?grey, ?other⟩
  case grey =>
    exact ⟨s.endAsView .grey 1 s.pixelCount, rfl, conversionFrame_endAsView s _ _ _, rfl, rfl, rfl, rfl, word32_toNat,
      word32_toNat (pixelCount_lt s)⟩
  case other =>
    exact ⟨s.endAsView .other 0 s.frameSize, rfl, conversionFrame_endAsView s _ _ _, rfl, rfl, rfl, rfl, word32_toNat,
      fun hf => (word32_toNat (frameSize_lt hf)).trans (frameSize_eq hf)⟩

/-! ### The faults -/

/-- An image that does not fit SCRATCH faults (R61). -/
theorem endInScratch_of_beyondScratch {s : State} {f : PixelFormat} (h : Config.maxPixels < s.pixelCount)
    (image : List Byte) : s.endInScratch f image = .fault .scratchOutOfRange := by
  have hbig : ¬ s.pixelCount ≤ Config.maxPixels := Nat.not_le.2 h
  rw [State.endInScratch, if_neg fun hfits : s.fits f => hbig hfits.1, if_neg hbig]

/-- An image that fits with input beyond DEVBUF faults (R60). -/
theorem endInScratch_of_beyondDevbuf {s : State} {f : PixelFormat} (h : s.pixelCount ≤ Config.maxPixels)
    (hneed : 0 < needIn f s.pixelCount) (hend : 2 ^ 32 < s.slice + needIn f s.pixelCount) (image : List Byte) :
    s.endInScratch f image = .fault .devbufOutOfRange := by
  have hno : ¬ s.fits f := by
    rintro ⟨-, hzero | hle⟩
    · omega
    · omega
  rw [State.endInScratch, if_neg hno, if_pos h]

/-- Settles O42: the end of a converting kernel, on either side of what fits. -/
theorem kernelsFaultOutsideTheSpaces : Obligations.KernelsFaultOutsideTheSpaces := by
  intro s f hu
  rw [exec_kernel, if_pos hu]
  exact ⟨fun h => endInScratch_of_beyondScratch h _, fun h hneed hend => endInScratch_of_beyondDevbuf h hneed hend _⟩

/-! ### A conversion depends on its input alone -/

/-- Two rasters of the same pixels are the same bytes. -/
theorem raster_congr {n : Nat} {px qx : Nat → Rgb} (h : ∀ p < n, px p = qx p) : raster n px = raster n qx := by
  refine List.flatMap_congr fun p hp => ?_
  rw [h p (List.mem_range.1 hp)]

/-- The facts on which two runs of one kernel agree (R170): the configuration, the tables, the slot, and what every pixel
reads of the format's input. -/
structure SameInput (f : PixelFormat) (s₁ s₂ : State) : Prop where
  cfg : s₁.cfg = s₂.cfg
  lut : s₁.lut = s₂.lut
  slot : s₁.seq.convSlot = s₂.seq.convSlot
  read : ∀ p k, k < needIn f s₁.pixelCount → s₁.readInput p k = s₂.readInput p k

/-- Where no byte of the input races, equal bytes are read alike (R267). -/
theorem readInput_congr {s₁ s₂ : State} {k : Nat} (h : s₁.inByte k = s₂.inByte k ∧ settledAt s₁ k ∧ settledAt s₂ k)
    (p : Nat) : s₁.readInput p k = s₂.readInput p k := by
  obtain ⟨hbyte, hsettled₁, hsettled₂⟩ := h
  rw [readInput_settled hsettled₁, readInput_settled hsettled₂, hbyte]

section sameInput
variable {f : PixelFormat} {s₁ s₂ : State}

theorem SameInput.pixelCount (h : SameInput f s₁ s₂) : s₁.pixelCount = s₂.pixelCount := by
  rw [State.pixelCount, State.pixelCount, h.cfg]

theorem SameInput.frameSize (h : SameInput f s₁ s₂) : s₁.frameSize = s₂.frameSize := by
  rw [State.frameSize, State.frameSize, h.cfg]

theorem SameInput.slice (h : SameInput f s₁ s₂) : s₁.slice = s₂.slice := by
  rw [State.slice, State.slice, State.slotAddr, State.slotAddr, h.cfg, h.slot, h.frameSize]

theorem SameInput.dimWord (h : SameInput f s₁ s₂) : s₁.dimWord = s₂.dimWord := by
  rw [State.dimWord, State.dimWord, h.cfg]

/-- Two rasters agree when their pixels do. -/
theorem SameInput.raster_eq (h : SameInput f s₁ s₂) {px qx : Nat → Rgb} (hpx : ∀ p < s₁.pixelCount, px p = qx p) :
    raster s₁.pixelCount px = raster s₂.pixelCount qx := by
  rw [← h.pixelCount]
  exact raster_congr hpx

end sameInput

/-- Column and row of a pixel of the raster lie in the frame. -/
theorem column_row_lt {w h p : Nat} (hp : p < w * h) : p % w < w ∧ p / w < h := by
  have hw : 0 < w := Nat.pos_of_ne_zero fun h0 => by simp [h0] at hp
  exact ⟨Nat.mod_lt _ hw, Nat.div_lt_of_lt_mul hp⟩

/-- A chroma sample of a plane of `a` columns and `b` rows lies in the plane. -/
theorem plane_lt {a b i j : Nat} (hi : i < a) (hj : j < b) : j * a + i < a * b :=
  calc j * a + i < (j + 1) * a := by rw [Nat.succ_mul]; omega
    _ ≤ b * a := Nat.mul_le_mul_right _ hj
    _ = a * b := Nat.mul_comm _ _

/-- The four quarters of a frame with even sides. -/
theorem mul_eq_four_quarters {w h : Nat} (hw : w % 2 = 0) (hh : h % 2 = 0) : w * h = 4 * (w / 2 * (h / 2)) := by
  obtain ⟨a, rfl⟩ := Nat.dvd_of_mod_eq_zero hw
  obtain ⟨b, rfl⟩ := Nat.dvd_of_mod_eq_zero hh
  rw [Nat.mul_div_cancel_left _ two_pos, Nat.mul_div_cancel_left _ two_pos]
  ring

/-- The two halves of a frame with an even width. -/
theorem mul_eq_two_halves {w : Nat} (hw : w % 2 = 0) (h : Nat) : w * h = 2 * (w / 2 * h) := by
  obtain ⟨a, rfl⟩ := Nat.dvd_of_mod_eq_zero hw
  rw [Nat.mul_div_cancel_left _ two_pos]
  ring

section pixels
variable {s₁ s₂ : State} {p : Nat}

/-- A YUV420P pixel is made of bytes of the input (R171, R174). -/
theorem yuv420pPixel_congr (h : SameInput .yuv420p s₁ s₂)
    (hd : dimensionsLegal .yuv420p s₁.cfg.width.toNat s₁.cfg.height.toNat = true) (hp : p < s₁.pixelCount) :
    s₁.yuv420pPixel p = s₂.yuv420pPixel p := by
  simp only [dimensionsLegal, Bool.and_eq_true, decide_eq_true_eq, beq_iff_eq, and_assoc] at hd
  obtain ⟨-, -, hweven, hheven⟩ := hd
  have hread := h.read p
  simp only [needIn, State.pixelCount] at hread hp
  simp only [State.yuv420pPixel, ← h.cfg, ← h.lut, Nat.div_add_mod']
  generalize s₁.cfg.width.toNat = width at *
  generalize s₁.cfg.height.toNat = height at *
  obtain ⟨hx, hr⟩ := column_row_lt hp
  have hchroma : p / width / 2 * (width / 2) + p % width / 2 < width / 2 * (height / 2) :=
    plane_lt (by omega) (by omega)
  have hsize := mul_eq_four_quarters hweven hheven
  rw [hread _ (by omega), hread (width * height + _ + _) (by omega),
    hread (width * height + width / 2 * (height / 2) + _ + _) (by omega)]

/-- A YUV422P pixel is made of bytes of the input (R171, R175). -/
theorem yuv422pPixel_congr (h : SameInput .yuv422p s₁ s₂)
    (hd : dimensionsLegal .yuv422p s₁.cfg.width.toNat s₁.cfg.height.toNat = true) (hp : p < s₁.pixelCount) :
    s₁.yuv422pPixel p = s₂.yuv422pPixel p := by
  simp only [dimensionsLegal, Bool.and_eq_true, decide_eq_true_eq, beq_iff_eq, and_assoc] at hd
  obtain ⟨-, -, hweven⟩ := hd
  have hread := h.read p
  simp only [needIn, State.pixelCount] at hread hp
  simp only [State.yuv422pPixel, ← h.cfg, ← h.lut, Nat.div_add_mod']
  generalize s₁.cfg.width.toNat = width at *
  generalize s₁.cfg.height.toNat = height at *
  obtain ⟨hx, hr⟩ := column_row_lt hp
  have hchroma : p / width * (width / 2) + p % width / 2 < width / 2 * height := plane_lt (by omega) hr
  have hsize := mul_eq_two_halves hweven height
  rw [hread _ (by omega), hread (width * height + _ + _) (by omega),
    hread (width * height + width / 2 * height + _ + _) (by omega)]

/-- A YUYV pixel is made of bytes of the input: the pixels are even in number, so its group is whole (R171, R176). -/
theorem yuyvPixel_congr (h : SameInput .yuyv s₁ s₂)
    (hd : dimensionsLegal .yuyv s₁.cfg.width.toNat s₁.cfg.height.toNat = true) (hp : p < s₁.pixelCount) :
    s₁.yuyvPixel p = s₂.yuyvPixel p := by
  simp only [dimensionsLegal, Bool.and_eq_true, decide_eq_true_eq, beq_iff_eq, and_assoc] at hd
  obtain ⟨-, -, hweven⟩ := hd
  have hsize : s₁.pixelCount = 2 * _ := mul_eq_two_halves hweven s₁.cfg.height.toNat
  have hread : ∀ k, k < 2 * s₁.pixelCount → s₁.readInput p k = s₂.readInput p k := h.read p
  simp only [State.yuyvPixel, ← h.lut]
  rw [hread _ (by omega), hread (4 * (p / 2) + 1) (by omega), hread (4 * (p / 2) + 3) (by omega)]

/-- A bit-packed pixel word is made of two bytes of the input (R171, R200, R201). -/
theorem pixelWord_congr (hread : ∀ k, k < 2 * s₁.pixelCount → s₁.readInput p k = s₂.readInput p k)
    (hp : p < s₁.pixelCount) : s₁.pixelWord p = s₂.pixelWord p := by
  rw [State.pixelWord, State.pixelWord, hread _ (by omega), hread (2 * p) (by omega)]

/-- An exchanged pixel is made of three bytes of the input (R171, R204). -/
theorem swappedPixel_congr (h : SameInput .rgb24 s₁ s₂) (hp : p < s₁.pixelCount) :
    s₁.swappedPixel p = s₂.swappedPixel p := by
  have hread : ∀ k, k < 3 * s₁.pixelCount → s₁.readInput p k = s₂.readInput p k := h.read p
  rw [State.swappedPixel, State.swappedPixel, hread _ (by omega), hread (3 * p + 1) (by omega), hread (3 * p) (by omega)]

end pixels

/-- Two runs of a kernel on the same input make the same image. -/
theorem imageOf_congr {f : PixelFormat} {s₁ s₂ : State} (h : SameInput f s₁ s₂)
    (hd : dimensionsLegal f s₁.cfg.width.toNat s₁.cfg.height.toNat = true) : s₁.imageOf f = s₂.imageOf f := by
  cases f
  case yuv420p => exact h.raster_eq fun _ => yuv420pPixel_congr h hd
  case yuv422p => exact h.raster_eq fun _ => yuv422pPixel_congr h hd
  case yuyv => exact h.raster_eq fun _ => yuyvPixel_congr h hd
  case rgb555 => exact h.raster_eq fun p hp => congrArg unpack555 (pixelWord_congr (h.read p) hp)
  case rgb565 => exact h.raster_eq fun p hp => congrArg unpack565 (pixelWord_congr (h.read p) hp)
  case rgb24 => exact h.raster_eq fun _ => swappedPixel_congr h
  case grey => rfl
  case other => rfl

/-- A view's descriptor is one of the configuration and the slot. -/
theorem endAsView_out_congr {f : PixelFormat} {s₁ s₂ : State} (h : SameInput f s₁ s₂) (fmt : PixelFormat)
    (channels : BitVec 2) (len : Nat) : (s₁.endAsView fmt channels len).out = (s₂.endAsView fmt channels len).out := by
  rw [endAsView_out, endAsView_out, h.dimWord, h.slice]

/-- Two views of a kernel that writes no image have the same descriptor. -/
theorem exec_view_out_congr {f : PixelFormat} {s₁ s₂ t₁ t₂ : State} (h : SameInput f s₁ s₂)
    (hu : usesScratch f s₁.cfg.bgrInvert = false) (h₁ : exec f.kernel s₁ = .next t₁) (h₂ : exec f.kernel s₂ = .next t₂) :
    t₁.out = t₂.out := by
  cases f
  case rgb24 =>
    obtain rfl := Host.Outcome.next.inj ((exec_kernelRgb24_of_not_bgrInvert hu).symm.trans h₁)
    obtain rfl := Host.Outcome.next.inj ((exec_kernelRgb24_of_not_bgrInvert (h.cfg ▸ hu)).symm.trans h₂)
    rw [← h.pixelCount]
    exact endAsView_out_congr h .rgb24 3 _
  case grey =>
    obtain rfl : s₁.endAsView .grey 1 s₁.pixelCount = t₁ := Host.Outcome.next.inj h₁
    obtain rfl : s₂.endAsView .grey 1 s₂.pixelCount = t₂ := Host.Outcome.next.inj h₂
    rw [← h.pixelCount]
    exact endAsView_out_congr h .grey 1 _
  case other =>
    obtain rfl : s₁.endAsView .other 0 s₁.frameSize = t₁ := Host.Outcome.next.inj h₁
    obtain rfl : s₂.endAsView .other 0 s₂.frameSize = t₂ := Host.Outcome.next.inj h₂
    rw [← h.frameSize]
    exact endAsView_out_congr h .other 0 _
  all_goals exact absurd hu nofun

/-- Settles O45: what the kernel reads of unraced input is equal, so the image is; a view's descriptor reads no memory. -/
theorem conversionDependsOnInputOnly : Obligations.ConversionDependsOnInputOnly := by
  intro f s₁ s₂ t₁ t₂ hcfg hlut hslot hd hinput h₁ h₂
  have h : SameInput f s₁ s₂ := ⟨hcfg, hlut, hslot, fun p k hk => readInput_congr (hinput k hk) p⟩
  cases hu : usesScratch f s₁.cfg.bgrInvert
  case false => exact ⟨exec_view_out_congr h hu h₁ h₂, nofun⟩
  case true =>
    have hu₂ : usesScratch f s₂.cfg.bgrInvert = true := hcfg ▸ hu
    rw [exec_kernel, if_pos hu] at h₁
    rw [exec_kernel, if_pos hu₂, ← imageOf_congr h hd] at h₂
    obtain ⟨-, rfl⟩ := (endInScratch_eq_next_iff ..).1 h₁
    obtain ⟨-, rfl⟩ := (endInScratch_eq_next_iff ..).1 h₂
    refine ⟨?_, fun _ a ha => ⟨(s₁.imageOf f)[a]'(by rwa [imageOf_length hu]), ?_, ?_⟩⟩
    · rw [scratchResult_out, scratchResult_out, h.dimWord, h.pixelCount]
    · exact read_image s₁.scratch _
    · exact read_image s₂.scratch _

end Sys2Proof.Machine
end

section
/-! SUPPORT. Whole runs: the wait without an answer, the burst, and the CAPTURE cycles (41_ring_controller.md R149 to R157). -/

namespace Sys2Proof.Machine

open Sys2Proof.Claims Sys2Proof.Safety

/-- A turn of the engine taken off the agenda runs what the phase enables (R38). -/
theorem step_of_turn {s : State} {rest : List Event} {i : Instr} (h : s.agenda = .engine :: rest)
    (hr : s.running = some i) : step s = exec i { s with agenda := rest } :=
  (step_of_cons h).trans (runTurn_of_running (s := { s with agenda := rest }) hr)

theorem running_of_rqQ {s : State} (h : s.seq.phase = .rqQ) : s.running = some .reqcap := by rw [State.running, h]

theorem running_of_awW {s : State} (h : s.seq.phase = .awW) : s.running = some .await := by rw [State.running, h]

theorem running_of_awQ {s : State} (h : s.seq.phase = .awQ) : s.running = some .await := by rw [State.running, h]

theorem running_of_conv {s : State} (h : s.seq.phase = .conv) : s.running = some s.format.kernel := by
  rw [State.running, h]
  rfl

/-! ### The wait without an answer -/

/-- Settles O30, by induction on the number of turns: each leaves the state but for the turn. -/
theorem awaitHangsWithoutAnswer : Obligations.AwaitHangsWithoutAnswer := by
  intro s n hp ha
  refine ⟨_, ?_, rfl⟩
  induction n with
  | zero => rfl
  | succ n ih =>
    have hrunning : State.running { s with agenda := List.replicate (n + 1) .engine } = some .await :=
      hp.elim running_of_awW running_of_awQ
    have hturn := (step_of_turn (rest := List.replicate n .engine) rfl hrunning).trans (exec_await_of_noAnswer hp ha)
    exact (run_succ_of_next hturn).trans ih

/-! ### The burst -/

/-- An OK answer and the engine's turn after it: the engine runs in the answered state (R70). -/
theorem run_answer_turn {s t : State} {rest : List Event} {r : DevRequest} {i : Instr}
    (h : s.agenda = .deviceAnswer .ok :: .engine :: rest) (ho : s.chan.outstanding = some r) (hn : s.chan.answer = none)
    (hr : s.running = some i) (hexec : exec i (answered { s with agenda := rest } r .ok) = .next t) :
    Host.Core.run core 2 s = .next t := by
  have hanswer := step_of_answer h ho hn
  have hturn := step_of_turn (s := answered { s with agenda := .engine :: rest } r .ok) rfl hr
  exact (run_succ_of_next hanswer).trans ((run_one _).trans (hturn.trans hexec))

@[simp] theorem okAnswers_succ (n : Nat) : okAnswers (n + 1) = .deviceAnswer .ok :: .engine :: okAnswers n := rfl

/-- What a burst that re-queues `k` times leaves, begun in `s` (R151, R153): the conversion of the slot that SYNC_INDEX named, the
one advance, and `k` re-queues and `k` waits in the trace. -/
structure BurstEnd (k : Nat) (s t : State) : Prop where
  phase : t.seq.phase = .conv
  slot : t.seq.convSlot = s.ring.syncIndex.toNat
  advance : t.seq.convAdvance = true
  ring : t.ring = { s.ring with syncIndex := advanceIndex s.ring.syncIndex s.cfg.frameCount }
  queues : t.chan.log.count (.request (.queueCapture s.ring.activeIndex))
    = s.chan.log.count (.request (.queueCapture s.ring.activeIndex)) + k
  waits : t.chan.log.count (.request (.waitSync s.ring.syncIndex))
    = s.chan.log.count (.request (.waitSync s.ring.syncIndex)) + k
  selects : ∀ ch, t.chan.log.count (.request (.selectChannel ch)) = s.chan.log.count (.request (.selectChannel ch))

/-- What one wait and one re-queue of a burst leave, begun in `s` and both answered OK: the next wait is outstanding, with one
less to do, and the ring untouched (R151). -/
structure NextWait (s t : State) : Prop where
  ring : t.ring = s.ring
  cfg : t.cfg = s.cfg
  seq : t.seq = { s.seq with phase := .awW, burstLeft := s.seq.burstLeft - 1 }
  chan : t.chan = { outstanding := some (.waitSync s.ring.syncIndex), answer := none,
                    log := .request (.waitSync s.ring.syncIndex) :: .answered (.queueCapture s.ring.activeIndex) .ok
                      :: .request (.queueCapture s.ring.activeIndex) :: .answered (.waitSync s.ring.syncIndex) .ok
                      :: s.chan.log }

/-- A burst that ends from the next wait on has one re-queue more from this one on. -/
theorem BurstEnd.of_nextWait {k : Nat} {s u t : State} (h : BurstEnd k u t) (hu : NextWait s u) : BurstEnd (k + 1) s t := by
  obtain ⟨hphase, hslot, hadv, hring, hqueues, hwaits, hselects⟩ := h
  rw [hu.ring] at hslot hring hqueues hwaits
  rw [hu.cfg] at hring
  rw [hu.chan] at hqueues hwaits hselects
  refine ⟨hphase, hslot, hadv, hring, hqueues.trans ?_, hwaits.trans ?_, fun ch => (hselects ch).trans ?_⟩
  · simp; omega
  · simp; omega
  · simp

/-- A burst's re-queue, answered OK: the engine waits again (R147 step C). -/
theorem run_requeue {s : State} {rest : List Event} (hp : s.seq.phase = .awQ)
    (ho : s.chan.outstanding = some (.queueCapture s.ring.activeIndex)) (hn : s.chan.answer = none)
    (h : s.agenda = .deviceAnswer .ok :: .engine :: rest) :
    ∃ t, Host.Core.run core 2 s = .next t ∧ t.agenda = rest ∧ t.ring = s.ring ∧ t.cfg = s.cfg
      ∧ t.seq = { s.seq with phase := .awW }
      ∧ t.chan = { outstanding := some (.waitSync s.ring.syncIndex), answer := none,
                   log := .request (.waitSync s.ring.syncIndex) :: .answered (.queueCapture s.ring.activeIndex) .ok
                     :: s.chan.log } := by
  have hexec := exec_await_of_requeueOk (s := answered { s with agenda := rest } (.queueCapture s.ring.activeIndex) .ok) hp rfl
  refine ⟨_, run_answer_turn h ho hn (running_of_awQ hp) hexec, ?_⟩
  simp [State.sendWait]

section burst
variable {s : State} {rest : List Event} (hp : s.seq.phase = .awW)
  (ho : s.chan.outstanding = some (.waitSync s.ring.syncIndex)) (hn : s.chan.answer = none)
include hp ho hn

/-- The last wait of a burst, answered OK (R153). -/
theorem run_lastWait (hb : s.seq.burstLeft = 1) (h : s.agenda = .deviceAnswer .ok :: .engine :: rest) :
    ∃ t, Host.Core.run core 2 s = .next t ∧ t.agenda = rest ∧ BurstEnd 0 s t := by
  have hexec := exec_await_of_lastWait (s := answered { s with agenda := rest } (.waitSync s.ring.syncIndex) .ok) hp rfl hb
  exact ⟨_, run_answer_turn h ho hn (running_of_awW hp) hexec, rfl,
    ⟨rfl, rfl, rfl, rfl, by simp, by simp, by simp⟩⟩

/-- A wait of a burst with more to come, answered OK: the engine re-queues (R151). -/
theorem run_moreWaits (hb : 1 < s.seq.burstLeft) (h : s.agenda = .deviceAnswer .ok :: .engine :: rest) :
    ∃ t, Host.Core.run core 2 s = .next t ∧ t.agenda = rest ∧ t.ring = s.ring ∧ t.cfg = s.cfg
      ∧ t.seq = { s.seq with phase := .awQ, burstLeft := s.seq.burstLeft - 1 }
      ∧ t.chan = { outstanding := some (.queueCapture s.ring.activeIndex), answer := none,
                   log := .request (.queueCapture s.ring.activeIndex) :: .answered (.waitSync s.ring.syncIndex) .ok
                     :: s.chan.log } := by
  have hexec := exec_await_of_moreWaits (s := answered { s with agenda := rest } (.waitSync s.ring.syncIndex) .ok) hp rfl hb
  refine ⟨_, run_answer_turn h ho hn (running_of_awW hp) hexec, ?_⟩
  simp [State.requeue]

/-- A wait and a re-queue of a burst with waits left, both answered OK (R151). -/
theorem run_nextWait (hb : 1 < s.seq.burstLeft)
    (h : s.agenda = .deviceAnswer .ok :: .engine :: .deviceAnswer .ok :: .engine :: rest) :
    ∃ t, Host.Core.run core (2 + 2) s = .next t ∧ t.agenda = rest ∧ NextWait s t := by
  obtain ⟨u, hrun, hag, hring, hcfg, hseq, hchan⟩ := run_moreWaits hp ho hn hb h
  obtain ⟨t, hrun', hag', hring', hcfg', hseq', hchan'⟩ :=
    run_requeue (by rw [hseq]) (by rw [hchan, hring]) (by rw [hchan]) hag
  refine ⟨t, (run_add hrun).trans hrun', hag', hring'.trans hring, hcfg'.trans hcfg, ?_, ?_⟩
  · rw [hseq', hseq]
  · rw [hchan', hchan, hring]

/-- The burst with `k + 1` waits left, by induction on `k` (R151, R153). -/
theorem run_burst {k : Nat} (hb : s.seq.burstLeft = k + 1) (h : s.agenda = okAnswers (2 * k + 1) ++ rest) :
    ∃ t, Host.Core.run core (2 * (2 * k + 1)) s = .next t ∧ t.agenda = rest ∧ BurstEnd k s t := by
  induction k generalizing s with
  | zero => exact run_lastWait hp ho hn hb h
  | succ k ih =>
    obtain ⟨u, hnext, hagu, hu⟩ := run_nextWait hp ho hn (rest := okAnswers (2 * k + 1) ++ rest) (by omega) h
    obtain ⟨t, hrun, hag, hend⟩ := ih (by rw [hu.seq]) (by rw [hu.chan, hu.ring]) (by rw [hu.chan])
      (by simp [hu.seq, hb]) hagu
    have hlen : 2 * (2 * (k + 1) + 1) = 2 + 2 + 2 * (2 * k + 1) := by omega
    rw [hlen]
    exact ⟨t, (run_add hnext).trans hrun, hag, hend.of_nextWait hu⟩

end burst

/-- Settles O31: the burst's run, with the advance as the addition modulo FRAME_COUNT. -/
theorem awaitBurstRunsExactlyItsWaits : Obligations.AwaitBurstRunsExactlyItsWaits := by
  intro m s rest hm hp hb ho hn hsync h
  obtain ⟨k, rfl⟩ : ∃ k, m = k + 1 := ⟨m - 1, by omega⟩
  have hcount : 2 * (k + 1) - 1 = 2 * k + 1 := by omega
  rw [hcount] at h ⊢
  obtain ⟨t, hrun, hag, hend⟩ := run_burst hp ho hn hb h
  refine ⟨t, hrun, hag, hend.phase, hend.slot, hend.advance, ?_, ?_, ?_, hend.queues, hend.waits, hend.selects⟩
  · rw [hend.ring]
    exact advanceIndex_toNat hsync
  · rw [hend.ring]
  · rw [hend.ring]

/-! ### The CAPTURE cycles -/

/-- The engine is ready for a CAPTURE with CPF = 1: it is idle, its channel empty, and what REQCAP and AWAIT check holds (R141,
R148). -/
structure CaptureReady (s : State) : Prop where
  idle : s.seq.phase = .idle
  outstanding : s.chan.outstanding = none
  answer : s.chan.answer = none
  lut : s.status.lutValid = true
  cpf : s.cfg.capturesPerFrame = 1
  slots : s.cfg.frameCount ≠ 0
  region : regionOfR233 s
  geometry : geometryOfR171 s

/-- A command that ends in success leaves the engine ready, as it leaves the configuration and LUT_VALID. -/
theorem CaptureReady.of_ended {s t : State} (h : CaptureReady s) (hcfg : t.cfg = s.cfg)
    (hlut : t.status.lutValid = s.status.lutValid) (hp : t.seq.phase = .idle) (ho : t.chan.outstanding = none)
    (hn : t.chan.answer = none) : CaptureReady t where
  idle := hp
  outstanding := ho
  answer := hn
  lut := hlut.trans h.lut
  cpf := by rw [hcfg, h.cpf]
  slots := by rw [hcfg]; exact h.slots
  region := by have hr := h.region; unfold regionOfR233 at *; rwa [hcfg]
  geometry := by have hg := h.geometry; unfold geometryOfR171 at *; rwa [hcfg]

/-- What a ready engine has passed when AWAIT comes (R148). -/
theorem CaptureReady.awaitCheck {s : State} (h : CaptureReady s) : s.awaitCheck = none :=
  (awaitCheck_eq_none_iff s).2 ⟨h.lut, h.slots, by rw [h.cpf]; decide, h.region, h.geometry⟩

/-- A command word written while idle runs as its instruction (R25). -/
theorem step_of_command {s : State} {w : Word} {rest : List Event} {i : Instr}
    (h : s.agenda = .hostWrite 32 0x00 w :: rest) (hp : s.seq.phase = .idle) (hd : decodeCommand w = .ok i) :
    step s = exec i { s with agenda := rest } := stepRunsWrittenCommand s w rest i h hp hd

/-- What one command of a CAPTURE leaves: the engine ready again, the configuration and DEVBUF as they were. -/
structure CaptureStep (s : State) (rest : List Event) (t : State) : Prop where
  ready : CaptureReady t
  agenda : t.agenda = rest
  cfg : t.cfg = s.cfg
  devbuf : t.devbuf = s.devbuf

/-- REQCAP, its OK answer and the engine's step: CAP_INDEX advances (R140, R145). -/
theorem run_reqcap {s : State} {rest : List Event} (hs : CaptureReady s)
    (h : s.agenda = .hostWrite 32 0x00 2 :: .deviceAnswer .ok :: .engine :: rest) :
    ∃ t, Host.Core.run core 3 s = .next t ∧ CaptureStep s rest t
      ∧ t.ring.capIndex = advanceIndex s.ring.capIndex s.cfg.frameCount ∧ t.ring.syncIndex = s.ring.syncIndex := by
  obtain ⟨-, haccepts⟩ := reqcapAcceptance { s with agenda := .deviceAnswer .ok :: .engine :: rest } hs.idle
  have haccept := (step_of_command h hs.idle rfl).trans (haccepts hs.slots)
  exact ⟨_, (run_succ_of_next haccept).trans (run_answer_turn rfl rfl hs.answer (running_of_rqQ rfl)
    (exec_reqcap_of_ok rfl rfl)), ⟨hs.of_ended rfl rfl rfl rfl rfl, rfl, rfl, rfl⟩, rfl, rfl⟩

/-- AWAIT has been accepted (R148, R149). -/
def awaitAccepted (s : State) : State :=
  { s with
    status := { s.status with done := false, err := 0, outValid := false }
    out := .zero
    seq := { s.seq with phase := .awW, burstLeft := s.cfg.capturesPerFrame.toNat }
    chan := { s.chan with
      outstanding := some (.waitSync s.ring.syncIndex)
      log := .request (.waitSync s.ring.syncIndex) :: s.chan.log } }

/-- A ready engine accepts AWAIT (R148). -/
theorem step_of_await {s : State} {rest : List Event} (hs : CaptureReady s)
    (h : s.agenda = .hostWrite 32 0x00 3 :: rest) : step s = .next (awaitAccepted { s with agenda := rest }) := by
  obtain ⟨-, -, haccepts⟩ := awaitAcceptance { s with agenda := rest } hs.idle
  have hcpf : s.cfg.capturesPerFrame ≠ 0 := by rw [hs.cpf]; decide
  exact (step_of_command h hs.idle rfl).trans (haccepts hs.lut hs.slots hcpf hs.region hs.geometry)

/-- The conversion step as the engine's turn: under what acceptance has checked it completes (R154, R170). -/
theorem step_of_conversion {s : State} {rest : List Event} (h : s.agenda = .engine :: rest) (hp : s.seq.phase = .conv)
    (hlegal : conversionLegal s) (hslot : s.seq.convSlot < s.cfg.frameCount.toNat) :
    ∃ t, step s = .next t ∧ conversionFrame { s with agenda := rest } t := by
  obtain ⟨t, ht⟩ := exec_kernel_completes (fits_of_legal (s := { s with agenda := rest }) hlegal hslot)
  exact ⟨t, (step_of_turn h (running_of_conv hp)).trans ht, conversionFrame_of_exec_kernel ht⟩

/-- AWAIT with one wait, its OK answer, the engine's step and the conversion step: SYNC_INDEX advances (R147, R153, R154). -/
theorem run_await {s : State} {rest : List Event} (hs : CaptureReady s) (hsync : s.ring.syncIndex < s.cfg.frameCount)
    (h : s.agenda = .hostWrite 32 0x00 3 :: .deviceAnswer .ok :: .engine :: .engine :: rest) :
    ∃ t, Host.Core.run core 4 s = .next t ∧ CaptureStep s rest t ∧ t.ring.capIndex = s.ring.capIndex
      ∧ t.ring.syncIndex = advanceIndex s.ring.syncIndex s.cfg.frameCount := by
  have hone : s.cfg.capturesPerFrame.toNat = 1 := by rw [hs.cpf]; rfl
  have hwait := exec_await_of_lastWait (s := answered (awaitAccepted { s with agenda := .engine :: rest })
    (.waitSync s.ring.syncIndex) .ok) rfl rfl hone
  have hstart := (run_succ_of_next (step_of_await hs h)).trans
    (run_answer_turn rfl rfl hs.answer (running_of_awW rfl) hwait)
  obtain ⟨t, hconvert, hring, hcfg, -, hdevbuf, -, hchan, hagenda, -, hstatus, hseq⟩ := step_of_conversion
    (s := conversionStarted (answered (awaitAccepted { s with agenda := .engine :: rest }) (.waitSync s.ring.syncIndex) .ok))
    rfl rfl ⟨hs.lut, hs.slots, (regionLegal_iff s).2 hs.region, (geometryLegal_iff hs.slots).2 hs.geometry, rfl⟩ hsync
  have hready : CaptureReady t := hs.of_ended hcfg (by rw [hstatus]; rfl) (by rw [hseq]) (by rw [hchan]; rfl)
    (by rw [hchan]; rfl)
  exact ⟨t, (run_add hstart).trans ((run_one _).trans hconvert), ⟨hready, hagenda, hcfg, hdevbuf⟩, by rw [hring]; rfl,
    by rw [hring]; rfl⟩

/-- One cycle of CAPTURE takes seven steps and advances both indices (R155). -/
theorem run_captureCycle {s : State} {rest : List Event} (hs : CaptureReady s) (hsync : s.ring.syncIndex < s.cfg.frameCount)
    (h : s.agenda = captureCycle ++ rest) :
    ∃ t, Host.Core.run core 7 s = .next t ∧ CaptureStep s rest t
      ∧ t.ring.capIndex = advanceIndex s.ring.capIndex s.cfg.frameCount
      ∧ t.ring.syncIndex = advanceIndex s.ring.syncIndex s.cfg.frameCount := by
  obtain ⟨u, hreqcap, hu, hucap, husync⟩ := run_reqcap hs
    (rest := .hostWrite 32 0x00 3 :: .deviceAnswer .ok :: .engine :: .engine :: rest) h
  obtain ⟨t, hawait, ht, htcap, htsync⟩ := run_await hu.ready (by rw [husync, hu.cfg]; exact hsync) hu.agenda
  exact ⟨t, (run_add hreqcap).trans hawait,
    ⟨ht.ready, ht.agenda, ht.cfg.trans hu.cfg, ht.devbuf.trans hu.devbuf⟩, htcap.trans hucap,
    by rw [htsync, husync, hu.cfg]⟩

/-- `n` cycles take `7 * n` steps and advance both indices by `n` modulo FRAME_COUNT, by induction on `n` (R155). -/
theorem run_captureCycles (n : Nat) {s : State} {rest : List Event} (hs : CaptureReady s)
    (hcap : s.ring.capIndex < s.cfg.frameCount) (hsync : s.ring.syncIndex < s.cfg.frameCount)
    (h : s.agenda = (List.replicate n captureCycle).flatten ++ rest) :
    ∃ t, Host.Core.run core (7 * n) s = .next t ∧ CaptureStep s rest t
      ∧ t.ring.capIndex.toNat = (s.ring.capIndex.toNat + n) % s.cfg.frameCount.toNat
      ∧ t.ring.syncIndex.toNat = (s.ring.syncIndex.toNat + n) % s.cfg.frameCount.toNat := by
  induction n generalizing s with
  | zero => exact ⟨s, rfl, ⟨hs, h, rfl, rfl⟩, (Nat.mod_eq_of_lt hcap).symm, (Nat.mod_eq_of_lt hsync).symm⟩
  | succ n ih =>
    obtain ⟨u, hcycle, hu, hucap, husync⟩ := run_captureCycle hs hsync
      (rest := (List.replicate n captureCycle).flatten ++ rest)
      (by rw [h, List.replicate_succ, List.flatten_cons, List.append_assoc])
    obtain ⟨t, hrun, ht, htcap, htsync⟩ := ih hu.ready (by rw [hucap, hu.cfg]; exact advanceIndex_lt hs.slots)
      (by rw [husync, hu.cfg]; exact advanceIndex_lt hs.slots) hu.agenda
    have hsteps : 7 * (n + 1) = 7 + 7 * n := by omega
    rw [hsteps]
    refine ⟨t, (run_add hcycle).trans hrun, ⟨ht.ready, ht.agenda, ht.cfg.trans hu.cfg, ht.devbuf.trans hu.devbuf⟩, ?_, ?_⟩
    · rw [htcap, hucap, hu.cfg, advanceIndex_toNat hcap, Nat.mod_add_mod, Nat.add_assoc, Nat.add_comm 1]
    · rw [htsync, husync, hu.cfg, advanceIndex_toNat hsync, Nat.mod_add_mod, Nat.add_assoc, Nat.add_comm 1]

/-- Settles O58: the cycles' run from a ready engine with its indices in range. -/
theorem captureCyclesAdvanceBothIndices : Obligations.CaptureCyclesAdvanceBothIndices := by
  intro n s rest hp ho hn hlut hcpf hslots hregion hgeometry hring h
  obtain ⟨hcap, hsync, -⟩ := (ringInRange_iff_of_slots hslots).1 hring
  obtain ⟨t, hrun, ht, htcap, htsync⟩ :=
    run_captureCycles n ⟨hp, ho, hn, hlut, hcpf, hslots, hregion, hgeometry⟩ hcap hsync h
  exact ⟨t, hrun, ht.agenda, ht.ready.idle, htcap, htsync, ht.cfg, ht.devbuf⟩

end Sys2Proof.Machine
end
